-- ==== Sys2Proof/Word.lean ====
section
/-! DEFINITION. The widths of the block's data (spec/00_scope.md R11, R12) and the pair of words a
host puts on the two input ports (spec/30_encoding.md R48). -/

namespace Sys2Proof

/-- A `u8` (R11). -/
abbrev Byte := BitVec 8

/-- A `u16` (R11). -/
abbrev Half := BitVec 16

/-- A 32-bit command word or status register value (R48, R29). -/
abbrev Word := BitVec 32

/-- One command as the host presents it: the word `W` on the command port and the finite byte
sequence `D` on the data port (R36, R48). -/
structure Command where
  word : Word
  data : List Byte
  deriving DecidableEq, Repr

end Sys2Proof
end

