-- ==== Sys2Proof/Syntax.lean ====
section
/-! DEFINITION. The commands of the block, one constructor for each row of spec/opcode_table.json,
with the operands of spec/30_encoding.md R50. -/

namespace Sys2Proof

/-- A legal command (R51). `d` is always the byte sequence of the data port. -/
inductive Instr where
  /-- CRC_INIT, format F0 (R64). -/
  | crcInit
  /-- CRC_LOAD, format F16 (R65). -/
  | crcLoad (imm : Half)
  /-- CRC_BYTE, format F8 (R66). -/
  | crcByte (b : Byte)
  /-- CRC_BUF, format FD (R67). -/
  | crcBuf (d : List Byte)
  /-- CRC_READ, format F0 (R68). -/
  | crcRead
  /-- ENC_BUILD, format FAD: message type, sequence, payload (R69). -/
  | encBuild (t s : Byte) (d : List Byte)
  /-- ENC_VALIDATE, format FD (R71). -/
  | encValidate (d : List Byte)
  /-- PRS_BYTE, format F8 (R75). -/
  | prsByte (b : Byte)
  /-- PRS_BUF, format FD (R83). -/
  | prsBuf (d : List Byte)
  /-- PRS_RESET, format F0 (R84). -/
  | prsReset
  /-- REG_READ, format FA: register number (R89). -/
  | regRead (n : Byte)
  deriving DecidableEq, Repr

end Sys2Proof
end

