-- ==== Sys2Proof/Decode.lean ====
section
/-! DEFINITION. Decoding a command and encoding it again, from the format table of
spec/30_encoding.md R49, the operand table R50 and the opcode table R51. Decoding is total and
gives each refusal of R52 a name; the block answers every one of them with IllegalCommand. -/

namespace Sys2Proof

/-- The three grounds on which R52 calls a command illegal. -/
inductive DecodeError where
  /-- `OPC` is none of the eleven values of R51. -/
  | reservedOpcode
  /-- A field that R49 marks 0 is not zero. -/
  | nonzeroField
  /-- A format other than FD and FAD came with a non-empty `D`. -/
  | unexpectedData
  deriving DecidableEq, Repr

/-- `OPC = W[31:24]` (R48). -/
def fieldOpc (w : Word) : Byte := w.extractLsb' 24 8

/-- `A = W[23:16]` (R48). -/
def fieldA (w : Word) : Byte := w.extractLsb' 16 8

/-- `IMM = W[15:0]` (R48). -/
def fieldImm (w : Word) : Half := w.extractLsb' 0 16

/-- `IMM[15:8] = W[15:8]` (R48). -/
def fieldImmHi (w : Word) : Byte := w.extractLsb' 8 8

/-- `IMM[7:0] = W[7:0]` (R48). -/
def fieldImmLo (w : Word) : Byte := w.extractLsb' 0 8

/-- Accept `i` if the fields marked 0 are zero (`fields`) and the data port is as the format
allows (`port`). -/
def accept (fields port : Bool) (i : Instr) : Except DecodeError Instr :=
  if fields then
    if port then .ok i else .error .unexpectedData
  else .error .nonzeroField

/-- Format F0: no operand (R49). -/
def formatF0 (c : Command) (i : Instr) : Except DecodeError Instr :=
  accept (fieldA c.word == 0 && fieldImm c.word == 0) c.data.isEmpty i

/-- Format F16: a 16-bit immediate (R49). -/
def formatF16 (c : Command) (mk : Half → Instr) : Except DecodeError Instr :=
  accept (fieldA c.word == 0) c.data.isEmpty (mk (fieldImm c.word))

/-- Format F8: a byte immediate (R49). -/
def formatF8 (c : Command) (mk : Byte → Instr) : Except DecodeError Instr :=
  accept (fieldA c.word == 0 && fieldImmHi c.word == 0) c.data.isEmpty (mk (fieldImmLo c.word))

/-- Format FD: data only (R49). -/
def formatFD (c : Command) (mk : List Byte → Instr) : Except DecodeError Instr :=
  accept (fieldA c.word == 0 && fieldImm c.word == 0) true (mk c.data)

/-- Format FAD: type, sequence and data (R49). -/
def formatFAD (c : Command) (mk : Byte → Byte → List Byte → Instr) : Except DecodeError Instr :=
  accept (fieldImmHi c.word == 0) true (mk (fieldA c.word) (fieldImmLo c.word) c.data)

/-- Format FA: a register number in `A` (R49). -/
def formatFA (c : Command) (mk : Byte → Instr) : Except DecodeError Instr :=
  accept (fieldImm c.word == 0) c.data.isEmpty (mk (fieldA c.word))

/-- The opcode map of R51; an unlisted opcode, 0x00 among them, is reserved (R52). -/
def decode (c : Command) : Except DecodeError Instr :=
  if fieldOpc c.word = 0x01 then formatF0 c .crcInit
  else if fieldOpc c.word = 0x02 then formatF16 c .crcLoad
  else if fieldOpc c.word = 0x03 then formatF8 c .crcByte
  else if fieldOpc c.word = 0x04 then formatFD c .crcBuf
  else if fieldOpc c.word = 0x05 then formatF0 c .crcRead
  else if fieldOpc c.word = 0x10 then formatFAD c .encBuild
  else if fieldOpc c.word = 0x11 then formatFD c .encValidate
  else if fieldOpc c.word = 0x20 then formatF8 c .prsByte
  else if fieldOpc c.word = 0x21 then formatFD c .prsBuf
  else if fieldOpc c.word = 0x22 then formatF0 c .prsReset
  else if fieldOpc c.word = 0x30 then formatFA c .regRead
  else .error .reservedOpcode

/-- The instruction of a word numbered as spec/opcode_table.json numbers it, with an empty data
port: a row gives the data port no bits. -/
def decodeTableWord (nbits w : Nat) : Option Instr :=
  (decode { word := BitVec.ofNat 32 (w % 2 ^ nbits), data := [] }).toOption

/-- The word with the given `OPC`, `A` and `IMM` (R48). -/
def packWord (opc a : Byte) (imm : Half) : Word := (opc ++ a ++ imm : BitVec (8 + 8 + 16))

/-- A byte in `IMM[7:0]` under a zero `IMM[15:8]` (R48). -/
def immOfByte (b : Byte) : Half := ((0 : Byte) ++ b : BitVec (8 + 8))

/-- The word and data port that stand for a command (R49, R51, and the right column of R54). -/
def encode : Instr → Command
  | .crcInit => { word := packWord 0x01 0 0, data := [] }
  | .crcLoad imm => { word := packWord 0x02 0 imm, data := [] }
  | .crcByte b => { word := packWord 0x03 0 (immOfByte b), data := [] }
  | .crcBuf d => { word := packWord 0x04 0 0, data := d }
  | .crcRead => { word := packWord 0x05 0 0, data := [] }
  | .encBuild t s d => { word := packWord 0x10 t (immOfByte s), data := d }
  | .encValidate d => { word := packWord 0x11 0 0, data := d }
  | .prsByte b => { word := packWord 0x20 0 (immOfByte b), data := [] }
  | .prsBuf d => { word := packWord 0x21 0 0, data := d }
  | .prsReset => { word := packWord 0x22 0 0, data := [] }
  | .regRead n => { word := packWord 0x30 n 0, data := [] }

end Sys2Proof
end

