-- ==== Sys2Proof/Config.lean ====
section
/-! DEFINITION. The block's parameters: the ones the document settles (spec/00_scope.md R8) as
constants, and the ones it leaves open (R9) as the record `Config`, which a block instance fixes
for good (spec/10_state.md R17). Every definition of the model takes a `Config` as an argument. -/

namespace Sys2Proof

/-- The parameters the document leaves open (R9). -/
structure Config where
  /-- `CRC_POLY`: the 16-bit generator polynomial, the x^16 term implicit. -/
  crcPoly : Half
  /-- `CRC_REFLECT`: data enter least significant bit first. -/
  crcReflect : Bool
  /-- `ERR_COUNT_WIDTH`: the width in bits of the CRC-mismatch counter. -/
  errCountWidth : Nat
  deriving DecidableEq, Repr

/-- The defaults of R9, under which every vector of spec/95_test_vectors.md is computed. -/
def Config.default : Config where
  crcPoly := 0x1021
  crcReflect := false
  errCountWidth := 32

/-- What R9 asks of the parameters: `CRC_POLY` is odd. The width is at least 1 and, since
`ERR_COUNT` is a 32-bit register that shows the whole counter (R29), at most 32 (DEDUCED, log
entry 3). -/
abbrev Config.WellFormed (cfg : Config) : Prop :=
  cfg.crcPoly.getLsbD 0 = true ∧ 1 ≤ cfg.errCountWidth ∧ cfg.errCountWidth ≤ 32

/-- `CRC_INIT` (R8). -/
def crcInitValue : Half := 0xFFFF

/-- `HDR0` (R8). -/
def hdr0 : Byte := 0xAA

/-- `HDR1` (R8). -/
def hdr1 : Byte := 0x55

/-- `MAX_PAYLOAD` (R8). -/
def maxPayload : Nat := 65535

/-- `MIN_FRAME` (R8). -/
def minFrame : Nat := 8

/-- `MAX_FRAME` (R8). -/
def maxFrame : Nat := 65543

end Sys2Proof
end

