-- ==== Sys2Proof/Machine/Operands.lean ====
section
/-! DEFINITION. The operand helpers of spec/00_scope.md R13: assembling and taking apart u16
values, big-endian on the wire (spec/20_memory.md R38). -/

namespace Sys2Proof.Machine

/-- `be16(hi, lo) = hi * 256 + lo` (R13). -/
def be16 (hi lo : Byte) : Half := (hi ++ lo : BitVec (8 + 8))

/-- `hi8(v) = v[15:8]` (R13). -/
def hi8 (v : Half) : Byte := v.extractLsb' 8 8

/-- `lo8(v) = v[7:0]` (R13). -/
def lo8 (v : Half) : Byte := v.extractLsb' 0 8

/-- `zext_16(b)` (R13). -/
def zext16 (b : Byte) : Half := b.setWidth 16

/-- `rev16(v)`: bit i goes to bit 15 - i (R13). -/
def rev16 (v : Half) : Half := v.reverse

/-- `rx_len` (spec/10_state.md R24): the received length field, read big-endian, once `buf` holds
it, and 0 before. This is the `L` of spec/42_parser.md. -/
def rxLen : List Byte → Nat
  | _ :: _ :: lenHi :: lenLo :: _ => (be16 lenHi lenLo).toNat
  | _ => 0

end Sys2Proof.Machine
end

