-- ==== Sys2Proof/Machine/Crc16.lean ====
section
/-! DEFINITION. The CRC function (spec/40_crc.md R57 to R60), which the CRC unit, the codec and the
parser share. It takes the parameters as an argument and has no state. -/

namespace Sys2Proof.Machine

/-- One bit of R57: the register shifts left and takes the polynomial in when bit 15 was set. -/
def crcShiftMsb (poly c : Half) : Half :=
  if c.getLsbD 15 then (c <<< 1) ^^^ poly else c <<< 1

/-- One bit of R58: the register shifts right and takes `RPOLY` in when bit 0 was set. -/
def crcShiftLsb (rpoly c : Half) : Half :=
  if c.getLsbD 0 then (c >>> 1) ^^^ rpoly else c >>> 1

/-- R57: fold one byte into the running value, most significant bit first. -/
def crcStepMsb (poly c : Half) (b : Byte) : Half :=
  (crcShiftMsb poly)^[8] (c ^^^ (zext16 b <<< 8))

/-- R58: fold one byte into the running value, least significant bit first, with
`RPOLY = rev16(CRC_POLY)`. -/
def crcStepLsb (poly c : Half) (b : Byte) : Half :=
  (crcShiftLsb (rev16 poly))^[8] (c ^^^ zext16 b)

/-- `crc_step` (R57, or R58 when `CRC_REFLECT`). -/
def crcStep (cfg : Config) (c : Half) (b : Byte) : Half :=
  if cfg.crcReflect then crcStepLsb cfg.crcPoly c b else crcStepMsb cfg.crcPoly c b

/-- `crc16_update(r, d)` (R59). -/
def crc16Update (cfg : Config) (r : Half) (d : List Byte) : Half := d.foldl (crcStep cfg) r

/-- `crc16(d)` (R59). -/
def crc16 (cfg : Config) (d : List Byte) : Half := crc16Update cfg crcInitValue d

/-- The table of R60: `T[i] = crc_step(0x0000, i)` for i from 0 to 255. -/
def crcTable (cfg : Config) : List Half :=
  (List.range 256).map fun i => crcStep cfg 0 (BitVec.ofNat 8 i)

/-- The table-driven form of `crc_step` (R60). -/
def crcStepFast (cfg : Config) (c : Half) (b : Byte) : Half :=
  if cfg.crcReflect then
    (c >>> 8) ^^^ (crcTable cfg).getD (lo8 c ^^^ b).toNat 0
  else
    (c <<< 8) ^^^ (crcTable cfg).getD (hi8 c ^^^ b).toNat 0

/-- `crc16_fast(d)`, the table-driven function of the document (R6, R59, R60). -/
def crc16Fast (cfg : Config) (d : List Byte) : Half := d.foldl (crcStepFast cfg) crcInitValue

end Sys2Proof.Machine
end

