-- ==== Sys2Proof/Machine/State.lean ====
section
/-! DEFINITION. The block's state (spec/10_state.md R17), its two ports (spec/20_memory.md R36,
R37), the reasons a step can stop, and power-on reset (R33). -/

namespace Sys2Proof.Machine

/-- The five parser states (R21). -/
inductive PState where
  /-- No header byte matched. -/
  | idle
  /-- The first header byte, 0xAA, matched. -/
  | readingHeader
  /-- Both header bytes matched. -/
  | readingLength
  /-- The length is known; type, sequence and payload are being read. -/
  | readingPayload
  /-- The two CRC bytes are being read. -/
  | readingCrc
  deriving DecidableEq, Repr

/-- A decoded message (spec/00_scope.md R15): the triple of type, sequence and payload. -/
structure Message where
  type : Byte
  sequence : Byte
  payload : List Byte
  deriving DecidableEq, Repr

/-- The status of a command (spec/60_exceptions.md R91). -/
inductive Status where
  /-- Code 0: success. -/
  | ok
  /-- Code 1: ENC_BUILD was given more than 65535 payload bytes. -/
  | payloadTooLarge
  /-- Code 2: a malformed command, or a register number that is not implemented. -/
  | illegalCommand
  deriving DecidableEq, Repr

/-- What a command leaves on the result port (R37): its status and its results, each of which is
empty for the commands that do not return it and for every command that fails (R92). -/
structure Response where
  status : Status
  /-- The `value : u16` of CRC_READ. -/
  crcValue : Half := 0
  /-- The `frame` of ENC_BUILD. -/
  frame : List Byte := []
  /-- The `valid` of ENC_VALIDATE. -/
  valid : Bool := false
  /-- The `done` of PRS_BYTE. -/
  done : Bool := false
  /-- The `msg` of PRS_BYTE, present when `done = 1`. -/
  msg : Option Message := none
  /-- The `msgs` of PRS_BUF. -/
  msgs : List Message := []
  /-- The `value : u32` of REG_READ. -/
  regValue : Word := 0
  deriving DecidableEq, Repr

/-- What can arrive at the block: a command with its data, or the block's power going off and on
again (spec/60_exceptions.md R103, spec/70_reset_and_hazards.md R104). -/
inductive PortEvent where
  /-- A command word with its data-port bytes. -/
  | command (c : Command)
  /-- Power-on reset. -/
  | powerOnReset
  deriving DecidableEq, Repr

/-- The reasons a step can stop with a fault. There are none: the block takes no traps (R96) and
every error is a status on the result port, after which the next command executes normally
(R91, R97). -/
inductive Fault where
  deriving DecidableEq, Repr

/-- The reasons a step can be refused. -/
inductive Refusal where
  /-- Raised only by an arm of `exec` whose instruction has no meaning yet; safe, since it stops
  where the hardware goes on. No arm of this model raises it. -/
  | notModelled (mnemonic : String)
  deriving DecidableEq, Repr

/-- The block. The fields from `crcReg` to `msgPayload` are the state tuple of R17; `cfg` is the
instance's configuration, and `inputs` and `resultPort` are the model's own picture of the ports
(log entries 1, 2 and 4). -/
structure State where
  /-- The parameters of the instance (R9, R17); no step changes them. -/
  cfg : Config
  /-- `crc_reg`: the CRC unit's running value (R20). -/
  crcReg : Half
  /-- `pstate`: the parser's state (R21). -/
  pstate : PState
  /-- `buf`: the accumulation buffer, oldest byte first (R22). -/
  buf : List Byte
  /-- `err_count`: the count of CRC mismatches, below `2 ^ cfg.errCountWidth` (R25). -/
  errCount : Nat
  /-- `msg_valid`: the latest parser command ended by completing a good frame (R26). -/
  msgValid : Bool
  /-- `msg_type` (R26). -/
  msgType : Byte
  /-- `msg_seq` (R26). -/
  msgSeq : Byte
  /-- `msg_payload` (R26). -/
  msgPayload : List Byte
  /-- What the host will present next, in arrival order (R44): each step consumes the first. -/
  inputs : List PortEvent
  /-- What the latest command left on the result port; `none` before the first (R36, R37). -/
  resultPort : Option Response
  deriving DecidableEq, Repr

/-- The block right after power-on reset (R33, R104), for an instance with parameters `cfg` and a
host that will present `inputs`. -/
def State.powerOn (cfg : Config) (inputs : List PortEvent) : State where
  cfg := cfg
  crcReg := crcInitValue
  pstate := .idle
  buf := []
  errCount := 0
  msgValid := false
  msgType := 0
  msgSeq := 0
  msgPayload := []
  inputs := inputs
  resultPort := none

/-- The machine right after reset: R33's values, the default parameters of R9 (log entry 1), and
nothing at the ports yet (log entry 2). -/
def State.reset : State := State.powerOn Config.default []

end Sys2Proof.Machine
end

