-- ==== Sys2Proof/Machine/Flags.lean ====
section
/-! DEFINITION. The block has no condition codes; its flags are the values a command returns
(spec/10_state.md R27). This file holds the status codes (spec/60_exceptions.md R91), the parser
state codes (R21) and the responses built from them. -/

namespace Sys2Proof.Machine

/-- The code of a status (R91). -/
def Status.code : Status → Nat
  | .ok => 0
  | .payloadTooLarge => 1
  | .illegalCommand => 2

/-- The code of a parser state, used only by PARSER_STATUS (R21). -/
def PState.code : PState → Nat
  | .idle => 0
  | .readingHeader => 1
  | .readingLength => 2
  | .readingPayload => 3
  | .readingCrc => 4

/-- Status OK and no result: the response of CRC_INIT, CRC_LOAD, CRC_BYTE, CRC_BUF and PRS_RESET
(R37). -/
def Response.plainOk : Response := { status := .ok }

/-- A command that fails returns its status and empty results (R92). -/
def Response.error (st : Status) : Response := { status := st }

end Sys2Proof.Machine
end

