-- ==== Sys2Proof/Machine/Ops.lean ====
section
/-! DEFINITION. The named operations by which every command reads and writes the state: the
register writes of spec/00_scope.md R14, `BufAppend`, `BufClear`, `raise` and `return`. The block
has no memory (spec/20_memory.md R35), so there are no memory operations. -/

namespace Sys2Proof.Machine

/-- `crc_reg <- v` (R20). -/
def State.writeCrc (s : State) (v : Half) : State := { s with crcReg := v }

/-- `pstate <- p` (R21). -/
def State.writePState (s : State) (p : PState) : State := { s with pstate := p }

/-- `BufAppend(b)` (R14). -/
def State.bufAppend (s : State) (b : Byte) : State := { s with buf := s.buf ++ [b] }

/-- `BufClear()` (R14). -/
def State.bufClear (s : State) : State := { s with buf := [] }

/-- `err_count <- (err_count + 1) mod 2^ERR_COUNT_WIDTH` (R25). -/
def State.countMismatch (s : State) : State :=
  { s with errCount := (s.errCount + 1) % 2 ^ s.cfg.errCountWidth }

/-- `msg_valid <- 0`, with which every parser command begins (R26). The three other message
registers are not written (R83, R84; log entry 5). -/
def State.clearMsgValid (s : State) : State := { s with msgValid := false }

/-- Write a verified message to the message registers and set `msg_valid` (R26, R80). -/
def State.deliver (s : State) (m : Message) : State :=
  { s with msgValid := true, msgType := m.type, msgSeq := m.sequence, msgPayload := m.payload }

/-- `return`: put a response on the result port (R14, R37). -/
def State.respond (s : State) (r : Response) : State := { s with resultPort := some r }

/-- Take the first event off the input stream, leaving the ones that arrive after it (R44). -/
def State.setInputs (s : State) (rest : List PortEvent) : State := { s with inputs := rest }

/-- End a command with status OK and the results of `r`. -/
def finish (s : State) (r : Response) : Host.Outcome State Fault Refusal := .next (s.respond r)

/-- `raise`: end a command with a status other than OK. It writes nothing but the result port
(R14, R92); no trap is taken (R96) and the next command executes normally (R97). -/
def raise (st : Status) (s : State) : Host.Outcome State Fault Refusal :=
  .next (s.respond (Response.error st))

/-- Power off and on again (R103, R104): the values of R33, the instance's parameters kept, and
the input stream going on with what the host presents next. -/
def powerCycle (s : State) : Host.Outcome State Fault Refusal :=
  .next (State.powerOn s.cfg s.inputs)

/-- No command is at the port: every state is kept (R103; log entry 2). -/
def idleStep (s : State) : Host.Outcome State Fault Refusal := .next s

end Sys2Proof.Machine
end

