-- ==== Sys2Proof/Machine/Codec.lean ====
section
/-! DEFINITION. The Frame Codec commands (spec/41_codec.md R69 to R71). They read only their
operands and the parameters, and write only the result port (spec/10_state.md R28). -/

namespace Sys2Proof.Machine

/-- Everything of a frame before its CRC field: header, big-endian payload length, type, sequence
and payload (R69, R70). -/
def frameBody (t s : Byte) (d : List Byte) : List Byte :=
  [hdr0, hdr1, hi8 (BitVec.ofNat 16 d.length), lo8 (BitVec.ofNat 16 d.length), t, s] ++ d

/-- A body followed by its CRC, written big-endian (R69). -/
def withCrc (cfg : Config) (pre : List Byte) : List Byte :=
  pre ++ [hi8 (crc16 cfg pre), lo8 (crc16 cfg pre)]

/-- The frame of a message (R69, R70). -/
def buildFrame (cfg : Config) (t s : Byte) (d : List Byte) : List Byte :=
  withCrc cfg (frameBody t s d)

/-- ENC_BUILD: the frame of the message, or PayloadTooLarge above 65535 payload bytes (R69). -/
def execEncBuild (t sq : Byte) (d : List Byte) (s : State) : Host.Outcome State Fault Refusal :=
  if maxPayload < d.length then raise .payloadTooLarge s
  else finish s { status := .ok, frame := buildFrame s.cfg t sq d }

/-- The CRC check of a complete frame: at least 8 bytes, and the last two are the CRC of the
others (R71). -/
def validFrame (cfg : Config) (d : List Byte) : Bool :=
  if d.length < minFrame then false
  else crc16 cfg (d.take (d.length - 2)) == be16 (d.getD (d.length - 2) 0) (d.getD (d.length - 1) 0)

/-- ENC_VALIDATE: `valid` of the given frame (R71). -/
def execEncValidate (d : List Byte) (s : State) : Host.Outcome State Fault Refusal :=
  finish s { status := .ok, valid := validFrame s.cfg d }

end Sys2Proof.Machine
end

