-- ==== Sys2Proof/Machine/Control.lean ====
section
/-! DEFINITION. REG_READ (spec/43_control.md R89) and the six read-only status registers
(spec/10_state.md R29 to R32). -/

namespace Sys2Proof.Machine

/-- PARSER_STATUS (R30): STATE in bits [2:0], MSG_VALID in bit [3], the rest 0. -/
def parserStatus (s : State) : Word :=
  ((BitVec.ofBool s.msgValid).setWidth 32 <<< 3) ||| BitVec.ofNat 32 s.pstate.code

/-- MSG_INFO (R31): type, sequence and payload length of the output message, or 0 while
`msg_valid = 0`. -/
def msgInfo (s : State) : Word :=
  if s.msgValid then
    (BitVec.ofNat 32 s.msgPayload.length <<< 16) ||| (s.msgSeq.setWidth 32 <<< 8)
      ||| s.msgType.setWidth 32
  else 0

/-- The value of status register `n`, if there is one (R29, R89). -/
def statusRegister (n : Byte) (s : State) : Option Word :=
  if n = 0 then some (s.crcReg.setWidth 32)
  else if n = 1 then some (parserStatus s)
  else if n = 2 then some (BitVec.ofNat 32 s.buf.length)
  else if n = 3 then some (BitVec.ofNat 32 (rxLen s.buf))
  else if n = 4 then some (BitVec.ofNat 32 s.errCount)
  else if n = 5 then some (msgInfo s)
  else none

/-- REG_READ: return a status register, or raise IllegalCommand for a number above 5 (R89). -/
def execRegRead (n : Byte) (s : State) : Host.Outcome State Fault Refusal :=
  match statusRegister n s with
  | some v => finish s { status := .ok, regValue := v }
  | none => raise .illegalCommand s

end Sys2Proof.Machine
end

