-- ==== Sys2Proof/Machine/CrcEngine.lean ====
section
/-! DEFINITION. The CRC Engine commands (spec/40_crc.md R64 to R68). They write nothing but
`crc_reg` and the result port. -/

namespace Sys2Proof.Machine

/-- CRC_INIT: `crc_reg <- CRC_INIT` (R64). -/
def execCrcInit (s : State) : Host.Outcome State Fault Refusal :=
  finish (s.writeCrc crcInitValue) Response.plainOk

/-- CRC_LOAD: `crc_reg <- imm16` (R65). -/
def execCrcLoad (imm : Half) (s : State) : Host.Outcome State Fault Refusal :=
  finish (s.writeCrc imm) Response.plainOk

/-- CRC_BYTE: `crc_reg <- crc_step(crc_reg, b)` (R66). -/
def execCrcByte (b : Byte) (s : State) : Host.Outcome State Fault Refusal :=
  finish (s.writeCrc (crcStep s.cfg s.crcReg b)) Response.plainOk

/-- CRC_BUF: `crc_reg <- crc16_update(crc_reg, D)` (R67). -/
def execCrcBuf (d : List Byte) (s : State) : Host.Outcome State Fault Refusal :=
  finish (s.writeCrc (crc16Update s.cfg s.crcReg d)) Response.plainOk

/-- CRC_READ: `return crc_reg` (R68). -/
def execCrcRead (s : State) : Host.Outcome State Fault Refusal :=
  finish s { status := .ok, crcValue := s.crcReg }

end Sys2Proof.Machine
end

