-- ==== Sys2Proof/Machine/Parser.lean ====
section
/-! DEFINITION. The Frame Parser (spec/42_parser.md): the byte step `pstep` (R75 to R81) and the
commands made from it (R75, R83, R84). A byte step answers the state it reaches and the message it
completes, if any; `done` is 1 exactly when there is one (R75, R80). -/

namespace Sys2Proof.Machine

/-- Idle (R76): 0xAA opens a candidate frame, any other byte is discarded. -/
def pstepIdle (s : State) (b : Byte) : State :=
  if b = hdr0 then (s.bufAppend b).writePState .readingHeader else s

/-- ReadingHeader (R77): 0x55 completes the header, 0xAA is kept as a new first byte, any other
byte ends the false start. -/
def pstepHeader (s : State) (b : Byte) : State :=
  if b = hdr1 then (s.bufAppend b).writePState .readingLength
  else if b = hdr0 then s
  else s.bufClear.writePState .idle

/-- ReadingLength (R78): the fourth byte completes the length. -/
def pstepLength (s : State) (b : Byte) : State :=
  if (s.bufAppend b).buf.length = 4 then (s.bufAppend b).writePState .readingPayload
  else s.bufAppend b

/-- ReadingPayload (R79): type, sequence and `L` payload bytes. -/
def pstepPayload (s : State) (b : Byte) : State :=
  if (s.bufAppend b).buf.length = 6 + rxLen (s.bufAppend b).buf then
    (s.bufAppend b).writePState .readingCrc
  else s.bufAppend b

/-- The bytes of a complete frame `f` before its CRC field (R80). -/
def crcCovered (f : List Byte) : List Byte := f.take (6 + rxLen f)

/-- The CRC field of a complete frame `f`, read big-endian (R80). -/
def receivedCrc (f : List Byte) : Half := be16 (f.getD (6 + rxLen f) 0) (f.getD (7 + rxLen f) 0)

/-- The message of a complete frame `f`: `{f[4], f[5], f[6 .. 6+L)}` (R80). -/
def messageOf (f : List Byte) : Message :=
  { type := f.getD 4 0, sequence := f.getD 5 0, payload := (crcCovered f).drop 6 }

/-- The end of a frame, `buf` holding all of it: deliver the message if the CRC agrees (R80),
count a mismatch otherwise (R81); in both cases clear `buf` and return to Idle. -/
def completeFrame (s : State) : State × Option Message :=
  if crc16 s.cfg (crcCovered s.buf) = receivedCrc s.buf then
    ((s.deliver (messageOf s.buf)).bufClear.writePState .idle, some (messageOf s.buf))
  else
    (s.countMismatch.bufClear.writePState .idle, none)

/-- ReadingCrc (R80): the byte at offset `7 + L` completes the frame. -/
def pstepCrc (s : State) (b : Byte) : State × Option Message :=
  if (s.bufAppend b).buf.length = 8 + rxLen (s.bufAppend b).buf then completeFrame (s.bufAppend b)
  else (s.bufAppend b, none)

/-- `pstep` (R75), the parser's whole control flow (R86). -/
def pstep (s : State) (b : Byte) : State × Option Message :=
  match s.pstate with
  | .idle => (pstepIdle s b, none)
  | .readingHeader => (pstepHeader s b, none)
  | .readingLength => (pstepLength s b, none)
  | .readingPayload => (pstepPayload s b, none)
  | .readingCrc => pstepCrc s b

/-- What PRS_BYTE and each turn of PRS_BUF's loop do with a byte: `msg_valid <- 0`, then `pstep`
(R75, R83). -/
def feedByte (s : State) (b : Byte) : State × Option Message := pstep s.clearMsgValid b

/-- PRS_BUF's loop (R83): feed the bytes in index order and collect the messages in the order they
complete (spec/20_memory.md R44). -/
def feed (s : State) : List Byte → State × List Message
  | [] => (s, [])
  | b :: bs =>
    ((feed (feedByte s b).1 bs).1, (feedByte s b).2.toList ++ (feed (feedByte s b).1 bs).2)

/-- PRS_BYTE: feed one byte (R75). -/
def execPrsByte (b : Byte) (s : State) : Host.Outcome State Fault Refusal :=
  finish (feedByte s b).1
    { status := .ok, done := (feedByte s b).2.isSome, msg := (feedByte s b).2 }

/-- PRS_BUF: feed a byte sequence (R83). -/
def execPrsBuf (d : List Byte) (s : State) : Host.Outcome State Fault Refusal :=
  finish (feed s.clearMsgValid d).1 { status := .ok, msgs := (feed s.clearMsgValid d).2 }

/-- PRS_RESET: `pstate <- Idle; BufClear(); msg_valid <- 0` (R84). -/
def execPrsReset (s : State) : Host.Outcome State Fault Refusal :=
  finish ((s.writePState .idle).bufClear.clearMsgValid) Response.plainOk

end Sys2Proof.Machine
end

