-- ==== Sys2Proof/Machine/Dispatch.lean ====
section
/-! DEFINITION. The meaning of each command, one arm per constructor (spec/30_encoding.md R51). -/

namespace Sys2Proof.Machine

def exec (i : Instr) (s : State) : Host.Outcome State Fault Refusal :=
  match i with
  | .crcInit => Sys2Proof.Machine.execCrcInit s
  | .crcLoad imm => Sys2Proof.Machine.execCrcLoad imm s
  | .crcByte b => Sys2Proof.Machine.execCrcByte b s
  | .crcBuf d => Sys2Proof.Machine.execCrcBuf d s
  | .crcRead => Sys2Proof.Machine.execCrcRead s
  | .encBuild t q d => Sys2Proof.Machine.execEncBuild t q d s
  | .encValidate d => Sys2Proof.Machine.execEncValidate d s
  | .prsByte b => Sys2Proof.Machine.execPrsByte b s
  | .prsBuf d => Sys2Proof.Machine.execPrsBuf d s
  | .prsReset => Sys2Proof.Machine.execPrsReset s
  | .regRead n => Sys2Proof.Machine.execRegRead n s

end Sys2Proof.Machine
end

