-- ==== Sys2Proof/Machine/Step.lean ====
section
/-! DEFINITION. One step: the block takes the next event of its input stream. A command is decoded
before it executes, and one that does not decode raises IllegalCommand (spec/43_control.md R90,
spec/30_encoding.md R52). -/

namespace Sys2Proof.Machine

/-- One command is executed at a time, whole, in arrival order (spec/20_memory.md R42, R44). -/
def step (s : State) : Host.Outcome State Fault Refusal :=
  match s.inputs with
  | [] => idleStep s
  | .powerOnReset :: rest => powerCycle (s.setInputs rest)
  | .command c :: rest =>
    match decode c with
    | .ok i => exec i (s.setInputs rest)
    | .error _ => raise .illegalCommand (s.setInputs rest)

/-- `s` with the given word, and an empty data port, as the next command at the command port.
The block fetches nothing (spec/10_state.md R19): the host issues commands (log entry 2). -/
def State.withFetchWord (s : State) (nbits w : Nat) : State :=
  s.setInputs (.command { word := BitVec.ofNat 32 (w % 2 ^ nbits), data := [] } :: s.inputs)

end Sys2Proof.Machine
end

