-- ==== Sys2Proof/Machine/Asm.lean ====
section
/-! DEFINITION. The spec's assembler (spec/30_encoding.md R54 to R56): source lines, byte-sequence
operands and pseudo-instructions, down to the commands the host puts on the ports. It stands
before the machine and gives no command a meaning. -/

namespace Sys2Proof.Machine

/-- A source line once it is parsed. Operands are still unbounded numbers: one that does not fit
its field is an assembly error (R54). -/
inductive Asm where
  | crcInit
  | crcLoad (imm : Nat)
  | crcByte (b : Nat)
  | crcBuf (d : List Byte)
  | crcRead
  | encBuild (t s : Nat) (d : List Byte)
  | encValidate (d : List Byte)
  | prsByte (b : Nat)
  | prsBuf (d : List Byte)
  | prsReset
  | regRead (n : Nat)
  /-- `crc16 {d}` (R56). -/
  | crc16 (d : List Byte)
  /-- `crc16_fast {d}` (R56). -/
  | crc16Fast (d : List Byte)
  /-- `crc16_update r, {d}` (R56). -/
  | crc16Update (r : Nat) (d : List Byte)
  /-- `parse {d}` (R56, spec/41_codec.md R72). -/
  | parse (d : List Byte)
  /-- `enc.ping s` (R56). -/
  | encPing (s : Nat)
  deriving DecidableEq, Repr

/-- A byte operand, or an assembly error above 0xFF (R54). -/
def byteOperand (n : Nat) : Option Byte := if n ≤ 0xFF then some (BitVec.ofNat 8 n) else none

/-- A 16-bit operand, or an assembly error above 0xFFFF (R54). -/
def halfOperand (n : Nat) : Option Half := if n ≤ 0xFFFF then some (BitVec.ofNat 16 n) else none

/-- The commands a line stands for (R54, R56), or `none` for an assembly error. -/
def expand : Asm → Option (List Instr)
  | .crcInit => some [.crcInit]
  | .crcLoad imm => (halfOperand imm).map fun v => [.crcLoad v]
  | .crcByte b => (byteOperand b).map fun v => [.crcByte v]
  | .crcBuf d => some [.crcBuf d]
  | .crcRead => some [.crcRead]
  | .encBuild t s d => (byteOperand t).bind fun t' => (byteOperand s).map fun s' => [.encBuild t' s' d]
  | .encValidate d => some [.encValidate d]
  | .prsByte b => (byteOperand b).map fun v => [.prsByte v]
  | .prsBuf d => some [.prsBuf d]
  | .prsReset => some [.prsReset]
  | .regRead n => (byteOperand n).map fun v => [.regRead v]
  | .crc16 d => some [.crcInit, .crcBuf d, .crcRead]
  | .crc16Fast d => some [.crcInit, .crcBuf d, .crcRead]
  | .crc16Update r d => (halfOperand r).map fun v => [.crcLoad v, .crcBuf d, .crcRead]
  | .parse d => some [.prsReset, .prsBuf d]
  | .encPing s => (byteOperand s).map fun s' => [.encBuild 0x01 s' []]

/-- The words and data of a line (R54). -/
def assemble (a : Asm) : Option (List Command) := (expand a).map (List.map encode)

/-- A token of a source line. -/
inductive Token where
  | word (cs : List Char)
  | comma
  | bytes (d : List Byte)
  deriving DecidableEq, Repr

/-- Where the lexer stands; the lists are in reverse order. -/
inductive LexMode where
  /-- Between tokens. -/
  | between
  /-- Inside a mnemonic or number. -/
  | word (acc : List Char)
  /-- Inside braces, before a hex pair. -/
  | hex (acc : List Byte)
  /-- Inside braces, after the first digit of a pair. -/
  | nibble (acc : List Byte) (hi : Nat)
  /-- Inside braces, right after a pair. -/
  | pairDone (acc : List Byte)
  /-- Inside a double-quoted string. -/
  | str (acc : List Byte)
  /-- After a string, before the closing brace. -/
  | strDone (acc : List Byte)
  /-- After `;` (R54). -/
  | comment
  deriving DecidableEq, Repr

/-- The opening brace of R55. -/
def openBrace : Char := Char.ofNat 123

/-- The closing brace of R55. -/
def closeBrace : Char := Char.ofNat 125

/-- Blank characters inside a line. -/
def isBlank (c : Char) : Bool := c == ' ' || c == '\t'

/-- The value of a decimal digit. -/
def decDigit (c : Char) : Option Nat :=
  if '0'.toNat ≤ c.toNat ∧ c.toNat ≤ '9'.toNat then some (c.toNat - '0'.toNat) else none

/-- The value of a hex digit, of either case (log entry 7). -/
def hexDigit (c : Char) : Option Nat :=
  if '0'.toNat ≤ c.toNat ∧ c.toNat ≤ '9'.toNat then some (c.toNat - '0'.toNat)
  else if 'A'.toNat ≤ c.toNat ∧ c.toNat ≤ 'F'.toNat then some (c.toNat - 'A'.toNat + 10)
  else if 'a'.toNat ≤ c.toNat ∧ c.toNat ≤ 'f'.toNat then some (c.toNat - 'a'.toNat + 10)
  else none

/-- The characters of mnemonics and numbers: letters, digits, the dot and the underscore. -/
def isWordChar (c : Char) : Bool :=
  (hexDigit c).isSome || decide ('a'.toNat ≤ c.toNat ∧ c.toNat ≤ 'z'.toNat) || c == '.' || c == '_'

/-- A character met between tokens. -/
def lexBetween (c : Char) : Option (List Token × LexMode) :=
  if isBlank c then some ([], .between)
  else if c = ';' then some ([], .comment)
  else if c = ',' then some ([.comma], .between)
  else if c = openBrace then some ([], .hex [])
  else if isWordChar c then some ([], .word [c])
  else none

/-- One character of a line: the tokens it completes and where the lexer stands after it
(R54, R55). -/
def lexStep : LexMode → Char → Option (List Token × LexMode)
  | .between, c => lexBetween c
  | .word acc, c =>
    if isWordChar c then some ([], .word (c :: acc))
    else (lexBetween c).map fun r => (.word acc.reverse :: r.1, r.2)
  | .hex acc, c =>
    if isBlank c then some ([], .hex acc)
    else if c = closeBrace then some ([.bytes acc.reverse], .between)
    else if c = '"' ∧ acc = [] then some ([], .str [])
    else (hexDigit c).map fun v => ([], .nibble acc v)
  | .nibble acc hi, c => (hexDigit c).map fun v => ([], .pairDone (BitVec.ofNat 8 (16 * hi + v) :: acc))
  | .pairDone acc, c =>
    if isBlank c then some ([], .hex acc)
    else if c = closeBrace then some ([.bytes acc.reverse], .between)
    else none
  | .str acc, c =>
    if c = '"' then some ([], .strDone acc)
    else if c.toNat < 128 then some ([], .str (BitVec.ofNat 8 c.toNat :: acc))
    else none
  | .strDone acc, c =>
    if isBlank c then some ([], .strDone acc)
    else if c = closeBrace then some ([.bytes acc.reverse], .between)
    else none
  | .comment, _ => some ([], .comment)

/-- The end of a line. -/
def lexEnd : LexMode → Option (List Token)
  | .between => some []
  | .word acc => some [.word acc.reverse]
  | .comment => some []
  | .hex _ => none
  | .nibble _ _ => none
  | .pairDone _ => none
  | .str _ => none
  | .strDone _ => none

/-- The tokens of a line, or `none` if it has none of the forms of R54 and R55. -/
def lex (m : LexMode) : List Char → Option (List Token)
  | [] => lexEnd m
  | c :: cs => (lexStep m c).bind fun r => (lex r.2 cs).map (r.1 ++ ·)

/-- Digits in the given base, most significant first. -/
def digits (base : Nat) (digit : Char → Option Nat) (acc : Nat) : List Char → Option Nat
  | [] => some acc
  | c :: cs => (digit c).bind fun v => digits base digit (base * acc + v) cs

/-- A number: decimal, or hex with the prefix `0x` (R54). -/
def number : List Char → Option Nat
  | [] => none
  | '0' :: 'x' :: c :: cs => digits 16 hexDigit 0 (c :: cs)
  | c :: cs => digits 10 decDigit 0 (c :: cs)

/-- The six register names of R56, or a number. -/
def registerOperand (cs : List Char) : Option Nat :=
  if cs = "crc".toList then some 0
  else if cs = "status".toList then some 1
  else if cs = "count".toList then some 2
  else if cs = "rxlen".toList then some 3
  else if cs = "errcnt".toList then some 4
  else if cs = "msginfo".toList then some 5
  else number cs

/-- A line without operands. -/
def noOperand (a : Asm) : List Token → Option Asm
  | [] => some a
  | _ => none

/-- A line with one number. -/
def oneNumber (num : List Char → Option Nat) (mk : Nat → Asm) : List Token → Option Asm
  | [.word w] => (num w).map mk
  | _ => none

/-- A line with one byte sequence. -/
def oneBytes (mk : List Byte → Asm) : List Token → Option Asm
  | [.bytes d] => some (mk d)
  | _ => none

/-- A line with a number and a byte sequence. -/
def numberBytes (mk : Nat → List Byte → Asm) : List Token → Option Asm
  | [.word w, .comma, .bytes d] => (number w).map fun v => mk v d
  | _ => none

/-- A line with two numbers and a byte sequence. -/
def twoNumbersBytes (mk : Nat → Nat → List Byte → Asm) : List Token → Option Asm
  | [.word v, .comma, .word w, .comma, .bytes d] =>
    (number v).bind fun x => (number w).map fun y => mk x y d
  | _ => none

/-- The mnemonics of R54 and R56 with their operands. -/
def mnemonicLine (m : List Char) (ops : List Token) : Option Asm :=
  if m = "crc.init".toList then noOperand .crcInit ops
  else if m = "crc.load".toList then oneNumber number .crcLoad ops
  else if m = "crc.byte".toList then oneNumber number .crcByte ops
  else if m = "crc.buf".toList then oneBytes .crcBuf ops
  else if m = "crc.read".toList then noOperand .crcRead ops
  else if m = "enc.build".toList then twoNumbersBytes .encBuild ops
  else if m = "enc.validate".toList then oneBytes .encValidate ops
  else if m = "prs.byte".toList then oneNumber number .prsByte ops
  else if m = "prs.buf".toList then oneBytes .prsBuf ops
  else if m = "prs.reset".toList then noOperand .prsReset ops
  else if m = "reg.read".toList then oneNumber registerOperand .regRead ops
  else if m = "crc16".toList then oneBytes .crc16 ops
  else if m = "crc16_fast".toList then oneBytes .crc16Fast ops
  else if m = "crc16_update".toList then numberBytes .crc16Update ops
  else if m = "parse".toList then oneBytes .parse ops
  else if m = "enc.ping".toList then oneNumber number .encPing ops
  else none

/-- The lines of a token list: none for a blank or comment line, one otherwise (R54). -/
def parseTokens : List Token → Option (List Asm)
  | [] => some []
  | .word m :: ops => (mnemonicLine m ops).map fun a => [a]
  | .comma :: _ => none
  | .bytes _ :: _ => none

/-- One source line: its commands, or `none` for an assembly error (R54). -/
def assembleLine (line : List Char) : Option (List Command) :=
  (lex .between line).bind fun ts => (parseTokens ts).bind fun as =>
    (as.mapM assemble).map List.flatten

/-- The lines of a source text. -/
def splitLines : List Char → List (List Char)
  | [] => [[]]
  | c :: cs =>
    if c = '\n' then [] :: splitLines cs
    else
      match splitLines cs with
      | [] => [[c]]
      | l :: ls => (c :: l) :: ls

/-- A source text, one command a line (R54), to the commands the host issues for it. -/
def assembleSource (src : List Char) : Option (List Command) :=
  ((splitLines src).mapM assembleLine).map List.flatten

end Sys2Proof.Machine
end

