-- ==== Sys2Proof/Safety.lean ====
section
/-! DEFINITION. The terms in which claims about the block are made: the invariants of
spec/10_state.md R23, what the block promises of its message registers (R26), runs of commands, the
frames of spec/41_codec.md R70, and the tables the spec prints. -/

namespace Sys2Proof.Machine

/-- R23, one clause for each parser state. -/
abbrev ParserInv (s : State) : Prop :=
  (s.pstate = .idle ↔ s.buf.length = 0) ∧
  (s.pstate = .readingHeader ↔ s.buf = [0xAA#8]) ∧
  (s.pstate = .readingLength ↔
    (s.buf.length = 2 ∨ s.buf.length = 3) ∧ s.buf.take 2 = [0xAA#8, 0x55#8]) ∧
  (s.pstate = .readingPayload ↔
    4 ≤ s.buf.length ∧ s.buf.take 2 = [0xAA#8, 0x55#8] ∧ s.buf.length < 6 + rxLen s.buf) ∧
  (s.pstate = .readingCrc ↔
    4 ≤ s.buf.length ∧ s.buf.take 2 = [0xAA#8, 0x55#8] ∧
      6 + rxLen s.buf ≤ s.buf.length ∧ s.buf.length < 8 + rxLen s.buf)

/-- The widths of R17 that the types do not give: `err_count` has `ERR_COUNT_WIDTH` bits and a
message payload is at most `MAX_PAYLOAD` bytes long. The bound on `buf` follows (R22). -/
abbrev WidthInv (s : State) : Prop :=
  s.errCount < 2 ^ s.cfg.errCountWidth ∧ s.msgPayload.length ≤ maxPayload

/-- The invariant of the block between commands (R17, R23). -/
abbrev BlockInv (s : State) : Prop := ParserInv s ∧ WidthInv s

/-- The two states agree in everything the block makes a promise about: in all of it, but for the
message registers while `msg_valid = 0` (R26). -/
abbrev Agrees (s t : State) : Prop :=
  s.cfg = t.cfg ∧ s.crcReg = t.crcReg ∧ s.pstate = t.pstate ∧ s.buf = t.buf ∧
  s.errCount = t.errCount ∧ s.msgValid = t.msgValid ∧ s.inputs = t.inputs ∧
  s.resultPort = t.resultPort ∧
  (s.msgValid = true →
    s.msgType = t.msgType ∧ s.msgSeq = t.msgSeq ∧ s.msgPayload = t.msgPayload)

/-- The commands that feed or reset the parser (R32). -/
def isParserCommand : Instr → Bool
  | .prsByte _ => true
  | .prsBuf _ => true
  | .prsReset => true
  | .crcInit => false
  | .crcLoad _ => false
  | .crcByte _ => false
  | .crcBuf _ => false
  | .crcRead => false
  | .encBuild _ _ _ => false
  | .encValidate _ => false
  | .regRead _ => false

/-- The commands that write `crc_reg` (R20, R32). -/
def writesCrc : Instr → Bool
  | .crcInit => true
  | .crcLoad _ => true
  | .crcByte _ => true
  | .crcBuf _ => true
  | .crcRead => false
  | .encBuild _ _ _ => false
  | .encValidate _ => false
  | .prsByte _ => false
  | .prsBuf _ => false
  | .prsReset => false
  | .regRead _ => false

/-- Execute commands in order and collect what each leaves on the result port; `none` if one of
them stops. -/
def runInstrs : List Instr → State → Option (State × List Response)
  | [], s => some (s, [])
  | i :: is, s =>
    match exec i s with
    | .next t => (runInstrs is t).map fun r => (r.1, t.resultPort.toList ++ r.2)
    | .fault _ => none
    | .refused _ => none

/-- The rule of a command at the port: a word with this opcode has the given effect if the command
is legal, and otherwise IllegalCommand with no state written (spec/30_encoding.md R52,
spec/60_exceptions.md R92). Either way the command is consumed. -/
def PortRule (opc : Byte) (legal : Command → Prop) (effect : Command → State → State → Prop) :
    Prop :=
  ∀ (s : State) (c : Command) (rest : List PortEvent),
    s.inputs = .command c :: rest → c.word.extractLsb' 24 8 = opc →
    (legal c → ∃ t, step s = .next t ∧ effect c { s with inputs := rest } t) ∧
    (¬ legal c →
      step s = .next { s with inputs := rest, resultPort := some { status := .illegalCommand } })

/-- Feeding `b` completes a frame whose CRC field is wrong (spec/42_parser.md R81). -/
abbrev CompletesBadFrame (s : State) (b : Byte) : Prop :=
  s.pstate = .readingCrc ∧ s.buf.length + 1 = 8 + rxLen (s.buf ++ [b]) ∧
    crc16 s.cfg ((s.buf ++ [b]).take (6 + rxLen (s.buf ++ [b]))) ≠
      be16 ((s.buf ++ [b]).getD (6 + rxLen (s.buf ++ [b])) 0)
        ((s.buf ++ [b]).getD (7 + rxLen (s.buf ++ [b])) 0)

/-- How many bytes of `d`, fed in order, complete a frame with a wrong CRC (R93). -/
def mismatches (s : State) : List Byte → Nat
  | [] => 0
  | b :: bs => (if CompletesBadFrame s b then 1 else 0) + mismatches (feedByte s b).1 bs

/-- A row of spec/opcode_table.json: match, mask, and whether the command takes the data port. -/
structure OpcodeRow where
  pattern : Word
  mask : Word
  dataPort : Bool
  deriving DecidableEq, Repr

/-- spec/opcode_table.json, in its order. -/
def opcodeRows : List OpcodeRow :=
  [ { pattern := 0x01000000, mask := 0xFFFFFFFF, dataPort := false },
    { pattern := 0x02000000, mask := 0xFFFF0000, dataPort := false },
    { pattern := 0x03000000, mask := 0xFFFFFF00, dataPort := false },
    { pattern := 0x04000000, mask := 0xFFFFFFFF, dataPort := true },
    { pattern := 0x05000000, mask := 0xFFFFFFFF, dataPort := false },
    { pattern := 0x10000000, mask := 0xFF00FF00, dataPort := true },
    { pattern := 0x11000000, mask := 0xFFFFFFFF, dataPort := true },
    { pattern := 0x20000000, mask := 0xFFFFFF00, dataPort := false },
    { pattern := 0x21000000, mask := 0xFFFFFFFF, dataPort := true },
    { pattern := 0x22000000, mask := 0xFFFFFFFF, dataPort := false },
    { pattern := 0x30000000, mask := 0xFF00FFFF, dataPort := false } ]

/-- The command is of the row's form. -/
abbrev OpcodeRow.matches (r : OpcodeRow) (c : Command) : Prop :=
  c.word &&& r.mask = r.pattern ∧ (r.dataPort = true ∨ c.data = [])

/-- The table that spec/40_crc.md R60 prints for the default parameters. -/
def printedCrcTable : List Half :=
  [0x0000, 0x1021, 0x2042, 0x3063, 0x4084, 0x50A5, 0x60C6, 0x70E7] ++
  [0x8108, 0x9129, 0xA14A, 0xB16B, 0xC18C, 0xD1AD, 0xE1CE, 0xF1EF] ++
  [0x1231, 0x0210, 0x3273, 0x2252, 0x52B5, 0x4294, 0x72F7, 0x62D6] ++
  [0x9339, 0x8318, 0xB37B, 0xA35A, 0xD3BD, 0xC39C, 0xF3FF, 0xE3DE] ++
  [0x2462, 0x3443, 0x0420, 0x1401, 0x64E6, 0x74C7, 0x44A4, 0x5485] ++
  [0xA56A, 0xB54B, 0x8528, 0x9509, 0xE5EE, 0xF5CF, 0xC5AC, 0xD58D] ++
  [0x3653, 0x2672, 0x1611, 0x0630, 0x76D7, 0x66F6, 0x5695, 0x46B4] ++
  [0xB75B, 0xA77A, 0x9719, 0x8738, 0xF7DF, 0xE7FE, 0xD79D, 0xC7BC] ++
  [0x48C4, 0x58E5, 0x6886, 0x78A7, 0x0840, 0x1861, 0x2802, 0x3823] ++
  [0xC9CC, 0xD9ED, 0xE98E, 0xF9AF, 0x8948, 0x9969, 0xA90A, 0xB92B] ++
  [0x5AF5, 0x4AD4, 0x7AB7, 0x6A96, 0x1A71, 0x0A50, 0x3A33, 0x2A12] ++
  [0xDBFD, 0xCBDC, 0xFBBF, 0xEB9E, 0x9B79, 0x8B58, 0xBB3B, 0xAB1A] ++
  [0x6CA6, 0x7C87, 0x4CE4, 0x5CC5, 0x2C22, 0x3C03, 0x0C60, 0x1C41] ++
  [0xEDAE, 0xFD8F, 0xCDEC, 0xDDCD, 0xAD2A, 0xBD0B, 0x8D68, 0x9D49] ++
  [0x7E97, 0x6EB6, 0x5ED5, 0x4EF4, 0x3E13, 0x2E32, 0x1E51, 0x0E70] ++
  [0xFF9F, 0xEFBE, 0xDFDD, 0xCFFC, 0xBF1B, 0xAF3A, 0x9F59, 0x8F78] ++
  [0x9188, 0x81A9, 0xB1CA, 0xA1EB, 0xD10C, 0xC12D, 0xF14E, 0xE16F] ++
  [0x1080, 0x00A1, 0x30C2, 0x20E3, 0x5004, 0x4025, 0x7046, 0x6067] ++
  [0x83B9, 0x9398, 0xA3FB, 0xB3DA, 0xC33D, 0xD31C, 0xE37F, 0xF35E] ++
  [0x02B1, 0x1290, 0x22F3, 0x32D2, 0x4235, 0x5214, 0x6277, 0x7256] ++
  [0xB5EA, 0xA5CB, 0x95A8, 0x8589, 0xF56E, 0xE54F, 0xD52C, 0xC50D] ++
  [0x34E2, 0x24C3, 0x14A0, 0x0481, 0x7466, 0x6447, 0x5424, 0x4405] ++
  [0xA7DB, 0xB7FA, 0x8799, 0x97B8, 0xE75F, 0xF77E, 0xC71D, 0xD73C] ++
  [0x26D3, 0x36F2, 0x0691, 0x16B0, 0x6657, 0x7676, 0x4615, 0x5634] ++
  [0xD94C, 0xC96D, 0xF90E, 0xE92F, 0x99C8, 0x89E9, 0xB98A, 0xA9AB] ++
  [0x5844, 0x4865, 0x7806, 0x6827, 0x18C0, 0x08E1, 0x3882, 0x28A3] ++
  [0xCB7D, 0xDB5C, 0xEB3F, 0xFB1E, 0x8BF9, 0x9BD8, 0xABBB, 0xBB9A] ++
  [0x4A75, 0x5A54, 0x6A37, 0x7A16, 0x0AF1, 0x1AD0, 0x2AB3, 0x3A92] ++
  [0xFD2E, 0xED0F, 0xDD6C, 0xCD4D, 0xBDAA, 0xAD8B, 0x9DE8, 0x8DC9] ++
  [0x7C26, 0x6C07, 0x5C64, 0x4C45, 0x3CA2, 0x2C83, 0x1CE0, 0x0CC1] ++
  [0xEF1F, 0xFF3E, 0xCF5D, 0xDF7C, 0xAF9B, 0xBFBA, 0x8FD9, 0x9FF8] ++
  [0x6E17, 0x7E36, 0x4E55, 0x5E74, 0x2E93, 0x3EB2, 0x0ED1, 0x1EF0]

end Sys2Proof.Machine
end

