-- ==== Sys2Proof/WellFormed.lean ====
section
/-! DEFINITION. Which commands raise no IllegalCommand once they are decoded. The widths of the
operands are in their types, so the one check left is the register number of REG_READ
(spec/43_control.md R89, spec/60_exceptions.md R94). -/

namespace Sys2Proof

/-- The command names nothing that R94's first check refuses: a REG_READ names one of the six
status registers of spec/10_state.md R29. -/
def Instr.wf : Instr → Bool
  | .crcInit => true
  | .crcLoad _ => true
  | .crcByte _ => true
  | .crcBuf _ => true
  | .crcRead => true
  | .encBuild _ _ _ => true
  | .encValidate _ => true
  | .prsByte _ => true
  | .prsBuf _ => true
  | .prsReset => true
  | .regRead n => decide (n.toNat < 6)

end Sys2Proof
end

