-- ==== Sys2Proof/Certificates/Slice0/Obligations.lean ====
section
/-! DEFINITION. The statements about the model, each with the rules of spec/ it comes from. A
statement holds for every parameter set and every state unless it says otherwise. After a byte is
fed, a statement speaks of the message registers only as far as the block promises anything (R26,
`Agrees`). -/

open Sys2Proof Sys2Proof.Machine

/-! ## CRC Engine -/

/-- R64. -/
def Obligations.CrcInitWritesInitialValue : Prop :=
  (∀ s : State,
    exec .crcInit s = .next { s with crcReg := 0xFFFF, resultPort := some { status := .ok } }) ∧
  PortRule 0x01 (fun c => c.word = 0x01000000 ∧ c.data = [])
    (fun _ s t => t = { s with crcReg := 0xFFFF, resultPort := some { status := .ok } }) ∧
  (∀ s t : State, exec .crcInit s = .next t → exec .crcInit t = .next t)

/-- R65. -/
def Obligations.CrcLoadWritesImmediate : Prop :=
  (∀ (imm : Half) (s : State),
    exec (.crcLoad imm) s = .next { s with crcReg := imm, resultPort := some { status := .ok } }) ∧
  PortRule 0x02 (fun c => c.word.extractLsb' 16 8 = 0 ∧ c.data = [])
    (fun c s t =>
      t = { s with crcReg := c.word.extractLsb' 0 16, resultPort := some { status := .ok } }) ∧
  (∀ s : State, exec (.crcLoad 0xFFFF) s = exec .crcInit s)

/-- R66. Its sentence that a zero byte still changes a non-zero running value is not claimed: by
R57, which R66's pseudocode calls, 0xF01F is a fixed point under the defaults (log entry 11). -/
def Obligations.CrcByteFoldsOneByte : Prop :=
  (∀ (b : Byte) (s : State),
    exec (.crcByte b) s =
      .next { s with crcReg := crcStep s.cfg s.crcReg b, resultPort := some { status := .ok } }) ∧
  PortRule 0x03 (fun c => c.word.extractLsb' 8 16 = 0 ∧ c.data = [])
    (fun c s t =>
      t = { s with
            crcReg := crcStep s.cfg s.crcReg (c.word.extractLsb' 0 8)
            resultPort := some { status := .ok } }) ∧
  crcStep Config.default 0xFFFF 0x00 = 0xE1F0 ∧
  crcStep Config.default 0x0000 0x00 = 0x0000 ∧
  crcStep Config.default 0xFFFF 0x41 = 0xB915

/-- R67. -/
def Obligations.CrcBufFoldsEveryByte : Prop :=
  (∀ (d : List Byte) (s : State),
    exec (.crcBuf d) s =
      .next { s with
              crcReg := crc16Update s.cfg s.crcReg d
              resultPort := some { status := .ok } }) ∧
  PortRule 0x04 (fun c => c.word = 0x04000000)
    (fun c s t =>
      t = { s with
            crcReg := crc16Update s.cfg s.crcReg c.data
            resultPort := some { status := .ok } }) ∧
  (∀ s : State, exec (.crcBuf []) s = .next { s with resultPort := some { status := .ok } }) ∧
  (∀ (d : List Byte) (s : State), ∃ u : State,
    runInstrs (d.map .crcByte) s = some (u, List.replicate d.length { status := .ok }) ∧
    exec (.crcBuf d) s = .next { u with resultPort := some { status := .ok } }) ∧
  crc16 Config.default [0x31, 0x32, 0x33, 0x34, 0x35, 0x36, 0x37, 0x38, 0x39] = 0x29B1

/-- R68. -/
def Obligations.CrcReadReturnsRunningValue : Prop :=
  (∀ s : State,
    exec .crcRead s =
      .next { s with resultPort := some { status := .ok, crcValue := s.crcReg } }) ∧
  PortRule 0x05 (fun c => c.word = 0x05000000 ∧ c.data = [])
    (fun _ s t => t = { s with resultPort := some { status := .ok, crcValue := s.crcReg } }) ∧
  (∀ s t : State, exec .crcRead s = .next t → exec .crcRead t = .next t) ∧
  exec .crcRead State.reset =
    .next { State.reset with resultPort := some { status := .ok, crcValue := 0xFFFF } }

/-- R60: the table-driven form is the bit-by-bit form, for every polynomial and both bit orders,
and the printed table is the one the default parameters give. -/
def Obligations.TableFormEqualsBitForm : Prop :=
  (∀ (cfg : Config) (c : Half) (b : Byte),
    crcStepFast cfg c b = crcStep cfg c b) ∧
  (∀ (cfg : Config) (d : List Byte), crc16Fast cfg d = crc16 cfg d) ∧
  crcTable Config.default = printedCrcTable

/-- R57 and R58 against each other: the reflected step is the mirror image of the MSB-first step
with the same polynomial. Derived: no rule states it. -/
def Obligations.ReflectedStepMirrorsMsbStep : Prop :=
  ∀ (poly c : Half) (b : Byte),
    crcStepLsb poly (rev16 c) (BitVec.reverse b) = rev16 (crcStepMsb poly c b)

/-- R61 and R62. -/
def Obligations.CrcStreamingComposes : Prop :=
  (∀ (cfg : Config) (r : Half) (a b : List Byte),
    crc16Update cfg (crc16Update cfg r a) b = crc16Update cfg r (a ++ b)) ∧
  (∀ (cfg : Config) (a b : List Byte),
    crc16 cfg (a ++ b) = crc16Update cfg (crc16 cfg a) b) ∧
  (∀ (cfg : Config) (r : Half), crc16Update cfg r [] = r) ∧
  (∀ cfg : Config, crc16 cfg [] = 0xFFFF)

/-- R63: for every odd polynomial, either bit order, every sequence and every bit of it. -/
def Obligations.SingleBitErrorsDetected : Prop :=
  ∀ (cfg : Config) (d : List Byte) (i k : Nat),
    cfg.crcPoly.getLsbD 0 = true → i < d.length → k < 8 →
    crc16 cfg (d.set i (d.getD i 0 ^^^ (1#8 <<< k))) ≠ crc16 cfg d

/-! ## Frame Codec -/

/-- R69. -/
def Obligations.EncBuildReturnsFrame : Prop :=
  (∀ (t q : Byte) (d : List Byte) (s : State), d.length ≤ 65535 →
    ∃ pre f : List Byte,
      pre = [0xAA#8, 0x55#8, hi8 (BitVec.ofNat 16 d.length), lo8 (BitVec.ofNat 16 d.length), t, q]
        ++ d ∧
      f = pre ++ [hi8 (crc16 s.cfg pre), lo8 (crc16 s.cfg pre)] ∧
      f.length = d.length + 8 ∧
      exec (.encBuild t q d) s =
        .next { s with resultPort := some { status := .ok, frame := f } }) ∧
  (∀ (t q : Byte) (d : List Byte) (s : State), 65535 < d.length →
    exec (.encBuild t q d) s =
      .next { s with resultPort := some { status := .payloadTooLarge } }) ∧
  PortRule 0x10 (fun c => c.word.extractLsb' 8 8 = 0)
    (fun c s t =>
      exec (.encBuild (c.word.extractLsb' 16 8) (c.word.extractLsb' 0 8) c.data) s = .next t) ∧
  (∀ s : State, s.cfg = Config.default →
    exec (.encBuild 0x01 0x01 []) s =
      .next { s with
              resultPort := some
                { status := .ok, frame := [0xAA, 0x55, 0x00, 0x00, 0x01, 0x01, 0x7C, 0x4F] } })

/-- R70: the byte at every offset of a built frame. -/
def Obligations.BuiltFrameLayout : Prop :=
  ∀ (cfg : Config) (t q : Byte) (p f : List Byte),
    p.length ≤ 65535 → f = buildFrame cfg t q p →
    f.length = 8 + p.length ∧
    f[0]? = some 0xAA#8 ∧ f[1]? = some 0x55#8 ∧
    (∃ hi lo : Byte, f[2]? = some hi ∧ f[3]? = some lo ∧ hi.toNat * 256 + lo.toNat = p.length) ∧
    f[4]? = some t ∧ f[5]? = some q ∧
    (∀ k, k < p.length → f[6 + k]? = p[k]?) ∧
    f[6 + p.length]? = some (hi8 (crc16 cfg (f.take (6 + p.length)))) ∧
    f[7 + p.length]? = some (lo8 (crc16 cfg (f.take (6 + p.length))))

/-- R71. -/
def Obligations.EncValidateChecksTheCrc : Prop :=
  (∀ (d : List Byte) (s : State),
    exec (.encValidate d) s =
      .next { s with
              resultPort := some
                { status := .ok
                  valid := decide (8 ≤ d.length ∧
                    crc16 s.cfg (d.take (d.length - 2)) =
                      be16 (d.getD (d.length - 2) 0) (d.getD (d.length - 1) 0)) } }) ∧
  PortRule 0x11 (fun c => c.word = 0x11000000)
    (fun c s t => exec (.encValidate c.data) s = .next t) ∧
  (∀ (pre : List Byte) (s : State), 6 ≤ pre.length →
    exec (.encValidate (pre ++ [hi8 (crc16 s.cfg pre), lo8 (crc16 s.cfg pre)])) s =
      .next { s with resultPort := some { status := .ok, valid := true } }) ∧
  (∀ s : State, s.cfg = Config.default →
    exec (.encValidate [0xAA, 0x55, 0x00, 0x00, 0x01, 0x01, 0x7C, 0x4F]) s =
      .next { s with resultPort := some { status := .ok, valid := true } } ∧
    exec (.encValidate [0xAA, 0x55, 0x00, 0x00, 0x01, 0x01, 0x7C, 0x4E]) s =
      .next { s with resultPort := some { status := .ok, valid := false } })

/-- R73 (with R72's `parse`): what ENC_BUILD builds, `parse` gives back, whatever state the block
is in, and ENC_VALIDATE accepts. -/
def Obligations.BuildThenParseRoundTrip : Prop :=
  ∀ (t q : Byte) (p : List Byte) (s : State), p.length ≤ 65535 →
    ∃ (f : List Byte) (u : State),
      exec (.encBuild t q p) s =
        .next { s with resultPort := some { status := .ok, frame := f } } ∧
      expand (.parse f) = some [.prsReset, .prsBuf f] ∧
      runInstrs [.prsReset, .prsBuf f] s =
        some (u, [{ status := .ok },
          { status := .ok, msgs := [{ type := t, sequence := q, payload := p }] }]) ∧
      u.pstate = .idle ∧ u.buf = [] ∧ u.errCount = s.errCount ∧
      exec (.encValidate f) s = .next { s with resultPort := some { status := .ok, valid := true } }

/-! ## Frame Parser -/

/-- R76. -/
def Obligations.IdleScansForHeader : Prop :=
  ∀ (s : State) (b : Byte), BlockInv s → s.pstate = .idle →
    ∃ t : State, exec (.prsByte b) s = .next t ∧
      Agrees t (if b = 0xAA#8 then
          { s with
            pstate := .readingHeader, buf := [0xAA#8], msgValid := false
            resultPort := some { status := .ok } }
        else { s with msgValid := false, resultPort := some { status := .ok } })

/-- R77. -/
def Obligations.ReadingHeaderHandlesFalseStarts : Prop :=
  ∀ (s : State) (b : Byte), BlockInv s → s.pstate = .readingHeader →
    ∃ t : State, exec (.prsByte b) s = .next t ∧
      Agrees t (if b = 0x55#8 then
          { s with
            pstate := .readingLength, buf := [0xAA#8, 0x55#8], msgValid := false
            resultPort := some { status := .ok } }
        else if b = 0xAA#8 then
          { s with
            pstate := .readingHeader, buf := [0xAA#8], msgValid := false
            resultPort := some { status := .ok } }
        else
          { s with
            pstate := .idle, buf := [], msgValid := false
            resultPort := some { status := .ok } })

/-- R78. -/
def Obligations.ReadingLengthTakesTwoBytes : Prop :=
  ∀ (s : State) (b : Byte), BlockInv s → s.pstate = .readingLength →
    ∃ t : State, exec (.prsByte b) s = .next t ∧
      Agrees t { s with
        pstate := if s.buf.length = 3 then .readingPayload else .readingLength
        buf := s.buf ++ [b], msgValid := false, resultPort := some { status := .ok } } ∧
      (s.buf.length = 3 → rxLen t.buf = (s.buf.getD 2 0).toNat * 256 + b.toNat)

/-- R79. -/
def Obligations.ReadingPayloadTakesEveryByte : Prop :=
  ∀ (s : State) (b : Byte), BlockInv s → s.pstate = .readingPayload →
    ∃ t : State, exec (.prsByte b) s = .next t ∧
      Agrees t { s with
        pstate := if s.buf.length + 1 = 6 + rxLen s.buf then .readingCrc else .readingPayload
        buf := s.buf ++ [b], msgValid := false, resultPort := some { status := .ok } } ∧
      rxLen t.buf = rxLen s.buf

/-- R80 and R81: the two CRC bytes, and the end of a frame, good or bad. -/
def Obligations.ReadingCrcEndsTheFrame : Prop :=
  ∀ (s : State) (b : Byte) (l : Nat) (f : List Byte),
    BlockInv s → s.pstate = .readingCrc → l = rxLen s.buf → f = s.buf ++ [b] →
    ∃ t : State, exec (.prsByte b) s = .next t ∧
      (f.length < 8 + l →
        Agrees t { s with
          buf := f, msgValid := false, resultPort := some { status := .ok } }) ∧
      (f.length = 8 + l →
        crc16 s.cfg (f.take (6 + l)) = be16 (f.getD (6 + l) 0) (f.getD (7 + l) 0) →
        t = { s with
          pstate := .idle, buf := [], msgValid := true
          msgType := f.getD 4 0, msgSeq := f.getD 5 0, msgPayload := (f.drop 6).take l
          resultPort := some
            { status := .ok, done := true
              msg := some { type := f.getD 4 0, sequence := f.getD 5 0
                            payload := (f.drop 6).take l } } }) ∧
      (f.length = 8 + l →
        crc16 s.cfg (f.take (6 + l)) ≠ be16 (f.getD (6 + l) 0) (f.getD (7 + l) 0) →
        Agrees t { s with
          pstate := .idle, buf := [], msgValid := false
          errCount := (s.errCount + 1) % 2 ^ s.cfg.errCountWidth
          resultPort := some { status := .ok } })

/-- R86, row by row. `n` is the length of `buf` after the byte is appended and `g` says that the
frame it completes has a good CRC. -/
def Obligations.TransitionTable : Prop :=
  ∀ (s : State) (b : Byte), BlockInv s →
    ∃ (t : State) (r : Response),
      exec (.prsByte b) s = .next t ∧ t.resultPort = some r ∧ r.status = .ok ∧
      r.done = r.msg.isSome ∧
      ∀ (n l : Nat) (g : Prop),
        n = s.buf.length + 1 → l = rxLen (s.buf ++ [b]) →
        (g ↔ crc16 s.cfg ((s.buf ++ [b]).take (6 + l)) =
          be16 ((s.buf ++ [b]).getD (6 + l) 0) b) →
        (s.pstate = .idle ∧ b = 0xAA#8 ∧
            t.pstate = .readingHeader ∧ t.buf = [0xAA#8] ∧ r.done = false ∧ t.errCount = s.errCount) ∨
        (s.pstate = .idle ∧ b ≠ 0xAA#8 ∧
            t.pstate = .idle ∧ t.buf = [] ∧ r.done = false ∧ t.errCount = s.errCount) ∨
        (s.pstate = .readingHeader ∧ b = 0x55#8 ∧
            t.pstate = .readingLength ∧ t.buf = [0xAA#8, 0x55#8] ∧ r.done = false ∧
            t.errCount = s.errCount) ∨
        (s.pstate = .readingHeader ∧ b = 0xAA#8 ∧
            t.pstate = .readingHeader ∧ t.buf = [0xAA#8] ∧ r.done = false ∧
            t.errCount = s.errCount) ∨
        (s.pstate = .readingHeader ∧ b ≠ 0x55#8 ∧ b ≠ 0xAA#8 ∧
            t.pstate = .idle ∧ t.buf = [] ∧ r.done = false ∧ t.errCount = s.errCount) ∨
        (s.pstate = .readingLength ∧ n < 4 ∧
            t.pstate = .readingLength ∧ t.buf = s.buf ++ [b] ∧ r.done = false ∧
            t.errCount = s.errCount) ∨
        (s.pstate = .readingLength ∧ n = 4 ∧
            t.pstate = .readingPayload ∧ t.buf = s.buf ++ [b] ∧ r.done = false ∧
            t.errCount = s.errCount) ∨
        (s.pstate = .readingPayload ∧ n < 6 + l ∧
            t.pstate = .readingPayload ∧ t.buf = s.buf ++ [b] ∧ r.done = false ∧
            t.errCount = s.errCount) ∨
        (s.pstate = .readingPayload ∧ n = 6 + l ∧
            t.pstate = .readingCrc ∧ t.buf = s.buf ++ [b] ∧ r.done = false ∧
            t.errCount = s.errCount) ∨
        (s.pstate = .readingCrc ∧ n < 8 + l ∧
            t.pstate = .readingCrc ∧ t.buf = s.buf ++ [b] ∧ r.done = false ∧
            t.errCount = s.errCount) ∨
        (s.pstate = .readingCrc ∧ n = 8 + l ∧ g ∧
            t.pstate = .idle ∧ t.buf = [] ∧ r.done = true ∧ t.errCount = s.errCount) ∨
        (s.pstate = .readingCrc ∧ n = 8 + l ∧ ¬ g ∧
            t.pstate = .idle ∧ t.buf = [] ∧ r.done = false ∧
            t.errCount = (s.errCount + 1) % 2 ^ s.cfg.errCountWidth)

/-- R75's encoding, exceptions and example, and the frame of PRS_BYTE: it completes in every
state, leaves `crc_reg` alone, and answers `done` exactly when it leaves `msg_valid` set. -/
def Obligations.PrsByteCompletes : Prop :=
  (∀ (b : Byte) (s : State), ∃ (t : State) (r : Response),
    exec (.prsByte b) s = .next t ∧ t.resultPort = some r ∧ r.status = .ok ∧
    r.done = t.msgValid ∧ t.cfg = s.cfg ∧ t.crcReg = s.crcReg ∧ t.inputs = s.inputs ∧
    r.msg = (if t.msgValid then
        some { type := t.msgType, sequence := t.msgSeq, payload := t.msgPayload } else none)) ∧
  PortRule 0x20 (fun c => c.word.extractLsb' 8 16 = 0 ∧ c.data = [])
    (fun c s t => exec (.prsByte (c.word.extractLsb' 0 8)) s = .next t) ∧
  (∃ u : State,
    runInstrs ([0xAA, 0x55, 0x00, 0x00, 0x01, 0x01, 0x7C, 0x4F].map .prsByte) State.reset =
      some (u, List.replicate 7 { status := .ok } ++
        [{ status := .ok, done := true
           msg := some { type := 0x01, sequence := 0x01, payload := [] } }]))

/-- R82 (and the count of R109): from Idle, a header and a length `l` make the parser take `l + 4`
more bytes whatever they are; it is Idle again after exactly those, with one message or one
mismatch, and in no earlier state. -/
def Obligations.FrameBytesAreNotRescanned : Prop :=
  ∀ (s : State) (hi lo : Byte) (x : List Byte), BlockInv s → s.pstate = .idle →
    x.length = hi.toNat * 256 + lo.toNat + 4 →
    (∃ (t : State) (ms : List Message),
      exec (.prsBuf ([0xAA#8, 0x55#8, hi, lo] ++ x)) s = .next t ∧
      t.resultPort = some { status := .ok, msgs := ms } ∧
      t.pstate = .idle ∧ t.buf = [] ∧
      ((ms.length = 1 ∧ t.errCount = s.errCount) ∨
        (ms = [] ∧ t.errCount = (s.errCount + 1) % 2 ^ s.cfg.errCountWidth))) ∧
    (∀ y z : List Byte, x = y ++ z → z ≠ [] →
      ∃ t : State, exec (.prsBuf ([0xAA#8, 0x55#8, hi, lo] ++ y)) s = .next t ∧
        t.resultPort = some { status := .ok } ∧ t.errCount = s.errCount ∧
        t.buf = [0xAA#8, 0x55#8, hi, lo] ++ y)

/-- R83: PRS_BUF of nothing, its port rule, its example, and what `msg_valid` says after it. That
PRS_BUF of nothing keeps the three message registers, about which R26 makes no promise then, is
the model's reading of the pseudocode (DEDUCED, log entry 5). -/
def Obligations.PrsBufFeedsTheBuffer : Prop :=
  (∀ (d : List Byte) (s : State), ∃ (t : State) (ms : List Message),
    exec (.prsBuf d) s = .next t ∧ t.resultPort = some { status := .ok, msgs := ms } ∧
    t.cfg = s.cfg ∧ t.crcReg = s.crcReg ∧ t.inputs = s.inputs ∧
    (t.msgValid = true →
      ms.getLast? =
        some { type := t.msgType, sequence := t.msgSeq, payload := t.msgPayload })) ∧
  (∀ s : State,
    exec (.prsBuf []) s =
      .next { s with msgValid := false, resultPort := some { status := .ok } }) ∧
  (∀ (d : List Byte) (b : Byte) (s : State),
    ∃ (u v t : State) (r : Response) (ms : List Message),
      exec (.prsBuf d) s = .next u ∧ u.resultPort = some { status := .ok, msgs := ms } ∧
      exec (.prsByte b) u = .next v ∧ v.resultPort = some r ∧
      exec (.prsBuf (d ++ [b])) s = .next t ∧
      t.resultPort = some { status := .ok, msgs := ms ++ r.msg.toList } ∧
      t.msgValid = r.done ∧
      Agrees { t with resultPort := none } { v with resultPort := none }) ∧
  PortRule 0x21 (fun c => c.word = 0x21000000)
    (fun c s t => exec (.prsBuf c.data) s = .next t) ∧
  (∀ s : State, s.cfg = Config.default → BlockInv s → s.pstate = .idle →
    ∃ t : State,
      exec (.prsBuf [0xAA, 0x55, 0x00, 0x00, 0x01, 0x01, 0x7C, 0x4F,
        0xAA, 0x55, 0x00, 0x00, 0x01, 0x02, 0x4C, 0x2C]) s = .next t ∧
      t.resultPort = some
        { status := .ok
          msgs := [{ type := 0x01, sequence := 0x01, payload := [] },
            { type := 0x01, sequence := 0x02, payload := [] }] })

/-- R85. One PRS_BUF over `a ++ b`, two over `a` and `b`, and one PRS_BYTE for each byte of `a`
reach the same state and give the same messages. `msg_valid` (and the registers it covers) is
compared only where the last command fed a byte: a PRS_BUF of nothing clears it (R83), whatever
came before (log entry 6). -/
def Obligations.FeedEquivalence : Prop :=
  (∀ (a b : List Byte) (s : State),
    ∃ (t u : State) (ms ms' : List Message),
      exec (.prsBuf (a ++ b)) s = .next t ∧
      t.resultPort = some { status := .ok, msgs := ms ++ ms' } ∧
      runInstrs [.prsBuf a, .prsBuf b] s =
        some (u, [{ status := .ok, msgs := ms }, { status := .ok, msgs := ms' }]) ∧
      Agrees { t with msgValid := false, resultPort := none }
        { u with msgValid := false, resultPort := none } ∧
      (b ≠ [] → Agrees { t with resultPort := none } { u with resultPort := none })) ∧
  (∀ (a : List Byte) (s : State),
    ∃ (t u : State) (rs : List Response) (ms : List Message),
      exec (.prsBuf a) s = .next t ∧ t.resultPort = some { status := .ok, msgs := ms } ∧
      runInstrs (a.map .prsByte) s = some (u, rs) ∧
      ms = rs.flatMap (fun r => r.msg.toList) ∧
      Agrees { t with msgValid := false, resultPort := none }
        { u with msgValid := false, resultPort := none } ∧
      (a ≠ [] → Agrees { t with resultPort := none } { u with resultPort := none }))

/-- R84. That the three message registers are kept, about which R26 makes no promise then, is the
model's reading of the pseudocode (DEDUCED, log entry 5). -/
def Obligations.PrsResetReturnsToIdle : Prop :=
  (∀ s : State,
    exec .prsReset s =
      .next { s with
              pstate := .idle, buf := [], msgValid := false
              resultPort := some { status := .ok } }) ∧
  PortRule 0x22 (fun c => c.word = 0x22000000 ∧ c.data = [])
    (fun _ s t =>
      t = { s with
            pstate := .idle, buf := [], msgValid := false
            resultPort := some { status := .ok } })

/-- R87. Garbage fed from Idle that holds no `AA 55` pair ends in Idle or ReadingHeader and gives
nothing. After any garbage that ends in one of the two, a well-formed frame gives its own message,
added to whatever frames the garbage itself held (log entry 6); after garbage with no pair it
gives exactly its message. -/
def Obligations.SyncRecovery : Prop :=
  (∀ (s : State) (g : List Byte), BlockInv s → s.pstate = .idle → ¬ [0xAA#8, 0x55#8] <:+: g →
    ∃ t : State, exec (.prsBuf g) s = .next t ∧ t.resultPort = some { status := .ok } ∧
      (t.pstate = .idle ∨ t.pstate = .readingHeader) ∧ t.errCount = s.errCount) ∧
  (∀ (s : State) (g : List Byte) (t q : Byte) (p : List Byte),
    BlockInv s → s.pstate = .idle → p.length ≤ 65535 →
    ∃ (u v : State) (ms ms' : List Message),
      exec (.prsBuf g) s = .next u ∧ u.resultPort = some { status := .ok, msgs := ms } ∧
      exec (.prsBuf (g ++ buildFrame s.cfg t q p)) s = .next v ∧
      v.resultPort = some { status := .ok, msgs := ms' } ∧
      (u.pstate = .idle ∨ u.pstate = .readingHeader →
        ms' = ms ++ [{ type := t, sequence := q, payload := p }] ∧
        v.pstate = .idle ∧ v.buf = [] ∧ v.msgValid = true ∧ v.errCount = u.errCount)) ∧
  (∀ (s : State) (g : List Byte) (t q : Byte) (p : List Byte),
    BlockInv s → s.pstate = .idle → ¬ [0xAA#8, 0x55#8] <:+: g → p.length ≤ 65535 →
    ∃ v : State, exec (.prsBuf (g ++ buildFrame s.cfg t q p)) s = .next v ∧
      v.resultPort = some
        { status := .ok, msgs := [{ type := t, sequence := q, payload := p }] } ∧
      v.errCount = s.errCount)

/-- R88. -/
def Obligations.RecoveryAfterCorruptedCrc : Prop :=
  ∀ (s : State) (t q t2 q2 x y : Byte) (p p2 : List Byte),
    BlockInv s → s.pstate = .idle → p.length ≤ 65535 → p2.length ≤ 65535 →
    frameBody t q p ++ [x, y] ≠ buildFrame s.cfg t q p →
    ∃ v : State,
      exec (.prsBuf (frameBody t q p ++ [x, y] ++ buildFrame s.cfg t2 q2 p2)) s = .next v ∧
      v.resultPort = some
        { status := .ok, msgs := [{ type := t2, sequence := q2, payload := p2 }] } ∧
      v.errCount = (s.errCount + 1) % 2 ^ s.cfg.errCountWidth

/-- R111, with R20's independence of the parser from the other commands: a frame cut anywhere
before its end waits in `buf` through any commands that are not the parser's, and the rest of its
bytes completes it. -/
def Obligations.TruncatedFrameWaits : Prop :=
  ∀ (s : State) (t q : Byte) (p a b : List Byte) (js : List Instr),
    BlockInv s → s.pstate = .idle → p.length ≤ 65535 → buildFrame s.cfg t q p = a ++ b → b ≠ [] →
    (∀ j ∈ js, isParserCommand j = false) →
    ∃ (u v : State) (rs : List Response),
      runInstrs (.prsBuf a :: js) s = some (u, { status := .ok } :: rs) ∧
      u.buf = a ∧ u.errCount = s.errCount ∧
      exec (.prsBuf b) u = .next v ∧
      v.resultPort = some
        { status := .ok, msgs := [{ type := t, sequence := q, payload := p }] } ∧
      v.pstate = .idle ∧ v.buf = []

/-! ## REG_READ -/

/-- R89: the value each register number gives, the exceptions, the frame and the example of
REG_READ. -/
def Obligations.RegReadReturnsTheRegister : Prop :=
  (∀ s : State,
    exec (.regRead 0) s = .next { s with
      resultPort := some { status := .ok, regValue := s.crcReg.setWidth 32 } } ∧
    exec (.regRead 1) s = .next { s with
      resultPort := some
        { status := .ok
          regValue := BitVec.ofNat 32 ((if s.msgValid then 8 else 0) + s.pstate.code) } } ∧
    exec (.regRead 2) s = .next { s with
      resultPort := some { status := .ok, regValue := BitVec.ofNat 32 s.buf.length } } ∧
    exec (.regRead 3) s = .next { s with
      resultPort := some
        { status := .ok
          regValue := if 4 ≤ s.buf.length then
              (be16 (s.buf.getD 2 0) (s.buf.getD 3 0)).setWidth 32 else 0 } } ∧
    exec (.regRead 4) s = .next { s with
      resultPort := some { status := .ok, regValue := BitVec.ofNat 32 s.errCount } } ∧
    exec (.regRead 5) s = .next { s with
      resultPort := some
        { status := .ok
          regValue := if s.msgValid then
              BitVec.ofNat 32 s.msgPayload.length <<< 16 ||| s.msgSeq.setWidth 32 <<< 8 |||
                s.msgType.setWidth 32
            else 0 } }) ∧
  (∀ (n : Byte) (s : State), 6 ≤ n.toNat →
    exec (.regRead n) s =
      .next { s with resultPort := some { status := .illegalCommand } }) ∧
  PortRule 0x30 (fun c => c.word.extractLsb' 0 16 = 0 ∧ c.data = [])
    (fun c s t => exec (.regRead (c.word.extractLsb' 16 8)) s = .next t) ∧
  exec (.regRead 0) State.reset =
    .next { State.reset with resultPort := some { status := .ok, regValue := 0x0000FFFF } } ∧
  exec (.regRead 1) State.reset =
    .next { State.reset with resultPort := some { status := .ok, regValue := 0x00000000 } }

/-- R29, R30 and R31: the fields of the six registers, in every state of the invariant and for
every legal counter width (DEDUCED, log entry 3: a premise); their values at reset; and that there
is no seventh. -/
def Obligations.StatusRegisterMap : Prop :=
  (∀ s : State, BlockInv s → s.cfg.WellFormed →
    ∃ v : Fin 6 → Word,
      (∀ k : Fin 6, exec (.regRead (BitVec.ofNat 8 k.val)) s =
        .next { s with resultPort := some { status := .ok, regValue := v k } }) ∧
      (v 0).toNat = s.crcReg.toNat ∧
      (v 1).extractLsb' 0 3 = BitVec.ofNat 3 s.pstate.code ∧
      (v 1).getLsbD 3 = s.msgValid ∧
      (v 1).extractLsb' 4 28 = 0 ∧
      (v 2).toNat = s.buf.length ∧ s.buf.length ≤ 65543 ∧
      (v 3).toNat = (if 4 ≤ s.buf.length then
        (s.buf.getD 2 0).toNat * 256 + (s.buf.getD 3 0).toNat else 0) ∧
      (v 4).toNat = s.errCount ∧
      (s.msgValid = true →
        (v 5).extractLsb' 0 8 = s.msgType ∧ (v 5).extractLsb' 8 8 = s.msgSeq ∧
        ((v 5).extractLsb' 16 16).toNat = s.msgPayload.length) ∧
      (s.msgValid = false → v 5 = 0)) ∧
  (∀ k : Fin 6, exec (.regRead (BitVec.ofNat 8 k.val)) State.reset =
    .next { State.reset with
      resultPort := some { status := .ok, regValue := if k = 0 then 0x0000FFFF else 0 } }) ∧
  (∀ (n : Byte) (s : State), 6 ≤ n.toNat →
    exec (.regRead n) s =
      .next { s with resultPort := some { status := .illegalCommand } })

/-! ## The whole block -/

/-- R33 and R104: what power-on reset leaves, for every parameter set, and the machine's own reset
state. The model's own: that the machine starts with R9's defaults (DESIGN CHOICE, log entry 1),
that they are legal (DEDUCED, log entry 3), and that power-on reset is an event of the input
stream, which keeps the parameters and the inputs still to come (DESIGN CHOICE, log entry 4). -/
def Obligations.PowerOnResetValues : Prop :=
  (∀ (s : State) (rest : List PortEvent), s.inputs = .powerOnReset :: rest →
    ∃ t : State, step s = .next t ∧
      t.crcReg = 0xFFFF ∧ t.pstate = .idle ∧ t.buf = [] ∧ t.errCount = 0 ∧ t.msgValid = false ∧
      t.msgType = 0 ∧ t.msgSeq = 0 ∧ t.msgPayload = [] ∧ t.cfg = s.cfg ∧ BlockInv t ∧
      t.inputs = rest) ∧
  State.reset.crcReg = 0xFFFF ∧ State.reset.pstate = .idle ∧ State.reset.buf = [] ∧
  State.reset.errCount = 0 ∧ State.reset.msgValid = false ∧ State.reset.msgType = 0 ∧
  State.reset.msgSeq = 0 ∧ State.reset.msgPayload = [] ∧ State.reset.cfg = Config.default ∧
  Config.default.WellFormed

/-- R105: the two resets side by side, power-on reset being an event of the input stream (DESIGN
CHOICE, log entry 4). -/
def Obligations.TwoResetsDiffer : Prop :=
  ∀ (s : State) (rest : List PortEvent),
    ∃ t u : State,
      step { s with inputs := .powerOnReset :: rest } = .next t ∧
      step { s with inputs := .command (encode .prsReset) :: rest } = .next u ∧
      t.crcReg = 0xFFFF ∧ u.crcReg = s.crcReg ∧
      t.pstate = .idle ∧ u.pstate = .idle ∧ t.buf = [] ∧ u.buf = [] ∧
      t.errCount = 0 ∧ u.errCount = s.errCount ∧
      t.msgValid = false ∧ u.msgValid = false

/-- R23 at reset. -/
def Obligations.ResetEstablishesInvariant : Prop :=
  BlockInv State.reset ∧
  ∀ (cfg : Config) (inputs : List PortEvent), BlockInv (State.powerOn cfg inputs)

/-- R23: every step keeps the invariant, from every state that has it. -/
def Obligations.StepKeepsInvariant : Prop :=
  ∀ s t : State, BlockInv s → step s = .next t → BlockInv t ∧ t.cfg = s.cfg

/-- R22: the accumulation buffer never overflows. -/
def Obligations.BufferNeverOverflows : Prop :=
  ∀ (s : State) (b : Byte), BlockInv s →
    s.buf.length < 65543 ∧
    ∃ t : State, exec (.prsByte b) s = .next t ∧ t.buf.length ≤ s.buf.length + 1 ∧
      t.buf.length < 65543

/-- R97 with R96: nothing ever stops the block. -/
def Obligations.EveryStepCompletes : Prop :=
  (∀ s : State, ∃ t : State, step s = .next t) ∧
  (∀ (i : Instr) (s : State), ∃ (t : State) (r : Response),
    exec i s = .next t ∧ t.resultPort = some r)

/-- R92 and R91: a command that reports an error writes nothing but the result port, and leaves
empty results there. -/
def Obligations.ErrorsWriteNoState : Prop :=
  (∀ (i : Instr) (s t : State) (r : Response),
    exec i s = .next t → t.resultPort = some r → r.status ≠ .ok →
    t = { s with resultPort := some r } ∧
    r.frame = [] ∧ r.msgs = [] ∧ r.done = false ∧ r.msg = none ∧ r.valid = false ∧
    r.crcValue = 0 ∧ r.regValue = 0) ∧
  (∀ (s : State) (c : Command) (rest : List PortEvent) (e : DecodeError),
    s.inputs = .command c :: rest → decode c = .error e →
    step s = .next { s with
      inputs := rest
      resultPort := some
        { status := .illegalCommand, frame := [], msgs := [], done := false, msg := none
          valid := false, crcValue := 0, regValue := 0 } })

/-- R94 and R91: which command reports which status; that a malformed command, ENC_BUILD with any
payload among them, is illegal before anything else is looked at; and that a CRC mismatch neither
changes the status of a PRS_BUF nor keeps its later bytes from being processed. That clause equates
whole states, stale message registers included (DEDUCED, log entry 5). -/
def Obligations.StatusOfEveryCommand : Prop :=
  (∀ (i : Instr) (s : State), ∃ (t : State) (r : Response),
    exec i s = .next t ∧ t.resultPort = some r ∧
    (r.status = .illegalCommand ↔ i.wf = false) ∧
    (r.status = .payloadTooLarge ↔
      ∃ (t q : Byte) (d : List Byte), i = .encBuild t q d ∧ 65535 < d.length)) ∧
  (∀ (s : State) (c : Command) (rest : List PortEvent) (e : DecodeError),
    s.inputs = .command c :: rest → decode c = .error e →
    step s = .next { s with
      inputs := rest, resultPort := some { status := .illegalCommand } }) ∧
  (∀ (s : State) (c : Command) (rest : List PortEvent),
    s.inputs = .command c :: rest → c.word.extractLsb' 24 8 = 0x10 →
    c.word.extractLsb' 8 8 ≠ 0 →
    step s = .next { s with
      inputs := rest, resultPort := some { status := .illegalCommand } }) ∧
  (∀ (s : State) (b : Byte) (d : List Byte), CompletesBadFrame s b →
    ∃ (t u : State) (ms : List Message),
      exec (.prsByte b) s = .next t ∧ exec (.prsBuf d) t = .next u ∧
      exec (.prsBuf (b :: d)) s = .next u ∧
      u.resultPort = some { status := .ok, msgs := ms }) ∧
  Status.ok.code = 0 ∧ Status.payloadTooLarge.code = 1 ∧ Status.illegalCommand.code = 2

/-- R25: a step changes `err_count` only by counting mismatches, or by power-on reset. (That a step
with an empty port is possible, and keeps the count, is the model's choice, log entry 2, and so is
power-on reset as an event of the input stream, log entry 4.) -/
def Obligations.ErrCountCountsMismatches : Prop :=
  ∀ s t : State, BlockInv s → step s = .next t →
    (s.inputs = [] → t.errCount = s.errCount) ∧
    (∀ rest, s.inputs = .powerOnReset :: rest → t.errCount = 0) ∧
    (∀ c rest, s.inputs = .command c :: rest →
      t.errCount = (s.errCount +
        (match decode c with
          | .ok (.prsByte b) => mismatches s [b]
          | .ok (.prsBuf d) => mismatches s d
          | _ => 0)) % 2 ^ s.cfg.errCountWidth)

/-- R93: what a mismatch does inside a PRS_BUF, the bytes after it being processed as if they had
come first. The states compared are equal with their stale message registers (DEDUCED, log
entry 5). -/
def Obligations.MismatchDoesNotStopTheBuffer : Prop :=
  ∀ (s : State) (b : Byte) (d : List Byte), CompletesBadFrame s b →
    ∃ (t u : State) (r : Response),
      exec (.prsByte b) s = .next t ∧ t.resultPort = some { status := .ok } ∧
      t.errCount = (s.errCount + 1) % 2 ^ s.cfg.errCountWidth ∧
      t.pstate = .idle ∧ t.buf = [] ∧ t.msgValid = false ∧
      exec (.prsBuf d) t = .next u ∧ u.resultPort = some r ∧
      exec (.prsBuf (b :: d)) s = .next u

/-- R32 (and R20, R25, R28): the frame of every command. Only the CRC Engine's writing commands
write `crc_reg`, only parser commands write the parser's state and the message registers, no
command but PRS_BYTE and PRS_BUF touches `err_count`, and no command writes the parameters or
takes more than itself off the input stream. -/
def Obligations.CommandsWriteOnlyTheirOwnState : Prop :=
  ∀ (i : Instr) (s : State), ∃ t : State, exec i s = .next t ∧
    t.cfg = s.cfg ∧ t.inputs = s.inputs ∧
    (writesCrc i = false → t.crcReg = s.crcReg) ∧
    (isParserCommand i = false →
      t.pstate = s.pstate ∧ t.buf = s.buf ∧ t.errCount = s.errCount ∧ t.msgValid = s.msgValid ∧
      t.msgType = s.msgType ∧ t.msgSeq = s.msgSeq ∧ t.msgPayload = s.msgPayload) ∧
    (i = .prsReset → t.errCount = s.errCount)

/-- R20, R112: the codec and the parser neither read nor write `crc_reg`. The states compared are
equal with their stale message registers (DEDUCED, log entry 5). -/
def Obligations.CodecAndParserIgnoreCrcReg : Prop :=
  ∀ (i : Instr) (s : State) (v : Half),
    (isParserCommand i = true ∨ (∃ t q d, i = .encBuild t q d) ∨ (∃ d, i = .encValidate d)) →
    ∃ t : State, exec i s = .next t ∧ t.crcReg = s.crcReg ∧
      exec i { s with crcReg := v } = .next { t with crcReg := v }

/-- R26: nothing the block does depends on the message registers while `msg_valid = 0`, whatever
they hold: two states that differ only there stay so, and answer alike. -/
def Obligations.StaleMessageIsUnobservable : Prop :=
  ∀ s t : State, Agrees s t →
    ∃ s' t' : State, step s = .next s' ∧ step t = .next t' ∧ Agrees s' t'

/-- R108: the next parser command clears the message, and MSG_INFO then reads 0 unless that
command's last byte completed another frame. -/
def Obligations.MessageIsTransient : Prop :=
  ∀ (s : State) (i : Instr), isParserCommand i = true →
    ∃ (t : State) (r : Response), exec i s = .next t ∧ t.resultPort = some r ∧
      (r.msg = none → r.msgs = [] → t.msgValid = false ∧
        exec (.regRead 5) t = .next { t with resultPort := some { status := .ok, regValue := 0 } })

/-! ## Encoding and the step -/

/-- R13 and R38: taking a u16 apart and assembling it, as numbers, and the order on the wire. -/
def Obligations.BigEndianHalves : Prop :=
  (∀ hi lo : Byte, (be16 hi lo).toNat = hi.toNat * 256 + lo.toNat) ∧
  (∀ v : Half, be16 (hi8 v) (lo8 v) = v) ∧
  (∀ hi lo : Byte, hi8 (be16 hi lo) = hi ∧ lo8 (be16 hi lo) = lo) ∧
  (∀ (v : Half) (k : Nat), k < 16 → (rev16 v).getLsbD (15 - k) = v.getLsbD k)

/-- R48 to R51: no operand is dropped. -/
def Obligations.DecodeEncodeRoundTrip : Prop :=
  ∀ i : Instr, decode (encode i) = .ok i

/-- R48 to R52: every legal command is the encoding of the one it decodes to. -/
def Obligations.EncodeDecodeRoundTrip : Prop :=
  ∀ (c : Command) (i : Instr), decode c = .ok i → encode i = c

/-- R52, with the match and mask pairs of spec/opcode_table.json: the legal commands are exactly
those of a row's form, every other command raises IllegalCommand and changes no state, and a
command has the form of at most one row. -/
def Obligations.LegalCommandsAreTheTableRows : Prop :=
  (∀ c : Command, (∃ i, decode c = .ok i) ↔ ∃ r ∈ opcodeRows, r.matches c) ∧
  (∀ (s : State) (c : Command) (rest : List PortEvent),
    s.inputs = .command c :: rest → (¬ ∃ r ∈ opcodeRows, r.matches c) →
    step s = .next { s with
      inputs := rest, resultPort := some { status := .illegalCommand } }) ∧
  (∀ c : Command, ∀ r ∈ opcodeRows, ∀ r' ∈ opcodeRows, r.matches c → r'.matches c → r = r')

/-- R54's right column: a few words, written out, and what they decode to. -/
def Obligations.WrittenWordsDecode : Prop :=
  decode ⟨0x01000000, []⟩ = .ok .crcInit ∧
  decode ⟨0x020029B1, []⟩ = .ok (.crcLoad 0x29B1) ∧
  decode ⟨0x03000041, []⟩ = .ok (.crcByte 0x41) ∧
  decode ⟨0x1003007F, [0x01, 0x02, 0x03]⟩ = .ok (.encBuild 0x03 0x7F [0x01, 0x02, 0x03]) ∧
  decode ⟨0x200000AA, []⟩ = .ok (.prsByte 0xAA) ∧
  decode ⟨0x21000000, [0xAA, 0x55]⟩ = .ok (.prsBuf [0xAA, 0x55]) ∧
  decode ⟨0x30050000, []⟩ = .ok (.regRead 0x05) ∧
  decode ⟨0x00000000, []⟩ = .error .reservedOpcode ∧
  decode ⟨0x20000155, []⟩ = .error .nonzeroField ∧
  decode ⟨0x20000055, [0x00]⟩ = .error .unexpectedData

/-- R90: a step decodes its first input before anything else, executes the command it decodes to,
moved past it, and refuses whole a command that does not decode. -/
def Obligations.StepRunsTheDecodedCommand : Prop :=
  (∀ (s : State) (c : Command) (rest : List PortEvent) (i : Instr),
    s.inputs = .command c :: rest → decode c = .ok i →
    step s = exec i { s with inputs := rest }) ∧
  (∀ (s : State) (i : Instr) (rest : List PortEvent),
    s.inputs = .command (encode i) :: rest → step s = exec i { s with inputs := rest }) ∧
  (∀ (s : State) (c : Command) (rest : List PortEvent) (e : DecodeError),
    s.inputs = .command c :: rest → decode c = .error e →
    step s = .next { s with
      inputs := rest, resultPort := some { status := .illegalCommand } })

/-- With nothing at the port a step keeps every state. This is the model's choice (log entry 2):
the spec says only that state is kept while the block is powered (R103). -/
def Obligations.EmptyPortKeepsState : Prop :=
  ∀ s : State, s.inputs = [] → step s = .next s

/-- R44 and R42: commands at the port run one after another, each seeing the effects of those
before it and of none after it. -/
def Obligations.CommandsRunInOrder : Prop :=
  ∀ (is : List Instr) (s : State) (rest : List PortEvent),
    s.inputs = is.map (fun i => .command (encode i)) ++ rest →
    ∃ (u : State) (rs : List Response),
      runInstrs is { s with inputs := rest } = some (u, rs) ∧ rs.length = is.length ∧
      Host.Core.run Sys2Proof.core is.length s = .next u

/-! ## Assembler -/

/-- R54: the word of every core line, and an assembly error for an operand that does not fit. -/
def Obligations.AssemblerEncodings : Prop :=
  assemble .crcInit = some [⟨0x01000000, []⟩] ∧
  (∀ n, assemble (.crcLoad n) =
    if n ≤ 0xFFFF then some [⟨0x02000000 ||| BitVec.ofNat 32 n, []⟩] else none) ∧
  (∀ n, assemble (.crcByte n) =
    if n ≤ 0xFF then some [⟨0x03000000 ||| BitVec.ofNat 32 n, []⟩] else none) ∧
  (∀ d, assemble (.crcBuf d) = some [⟨0x04000000, d⟩]) ∧
  assemble .crcRead = some [⟨0x05000000, []⟩] ∧
  (∀ t q d, assemble (.encBuild t q d) =
    if t ≤ 0xFF ∧ q ≤ 0xFF then
      some [⟨0x10000000 ||| (BitVec.ofNat 32 t <<< 16) ||| BitVec.ofNat 32 q, d⟩]
    else none) ∧
  (∀ d, assemble (.encValidate d) = some [⟨0x11000000, d⟩]) ∧
  (∀ n, assemble (.prsByte n) =
    if n ≤ 0xFF then some [⟨0x20000000 ||| BitVec.ofNat 32 n, []⟩] else none) ∧
  (∀ d, assemble (.prsBuf d) = some [⟨0x21000000, d⟩]) ∧
  assemble .prsReset = some [⟨0x22000000, []⟩] ∧
  (∀ n, assemble (.regRead n) =
    if n ≤ 0xFF then some [⟨0x30000000 ||| (BitVec.ofNat 32 n <<< 16), []⟩] else none)

/-- R56: what the pseudo-instructions compute when their expansions run. -/
def Obligations.PseudoInstructionsRun : Prop :=
  (∀ (d : List Byte) (s : State), ∃ is u,
    expand (.crc16 d) = some is ∧ expand (.crc16Fast d) = some is ∧
    runInstrs is s = some (u, [{ status := .ok }, { status := .ok },
      { status := .ok, crcValue := crc16Fast s.cfg d }]) ∧
    u.crcReg = crc16 s.cfg d) ∧
  (∀ (r : Half) (d : List Byte) (s : State), ∃ is u,
    expand (.crc16Update r.toNat d) = some is ∧
    runInstrs is s = some (u, [{ status := .ok }, { status := .ok },
      { status := .ok, crcValue := crc16Update s.cfg r d }]) ∧
    u.crcReg = crc16Update s.cfg r d) ∧
  (∀ (d : List Byte) (s : State), ∃ is u ms,
    expand (.parse d) = some is ∧
    runInstrs is s = some (u, [{ status := .ok }, { status := .ok, msgs := ms }]) ∧
    ∀ s' : State, s'.cfg = s.cfg → ∃ u',
      runInstrs is s' = some (u', [{ status := .ok }, { status := .ok, msgs := ms }])) ∧
  (∀ q : Byte, expand (.encPing q.toNat) = some [.encBuild 0x01 q []]) ∧
  ["crc", "status", "count", "rxlen", "errcnt", "msginfo"].map
      (fun name => registerOperand name.toList) =
    [some 0, some 1, some 2, some 3, some 4, some 5]
end

