-- ==== Sys2Proof/Laws/Operands.lean ====
section
/-! SUPPORT. The operand helpers of R13 as numbers and bits. -/

namespace Sys2Proof.Machine

theorem be16_toNat (hi lo : Byte) : (be16 hi lo).toNat = hi.toNat * 256 + lo.toNat := by
  simp only [be16, BitVec.toNat_append]
  rw [← Nat.shiftLeft_add_eq_or_of_lt lo.isLt, Nat.shiftLeft_eq]

theorem rev16_getLsbD (v : Half) (k : Nat) (h : k < 16) :
    (rev16 v).getLsbD k = v.getLsbD (15 - k) := by
  unfold rev16
  rw [BitVec.getLsbD_reverse]
  simp [BitVec.getMsbD, h]

theorem rxLen_append {l : List Byte} (h : 4 ≤ l.length) (m : List Byte) :
    rxLen (l ++ m) = rxLen l := by
  match l, h with
  | _ :: _ :: _ :: _ :: _, _ => rfl

theorem rxLen_le (l : List Byte) : rxLen l ≤ 65535 := by
  unfold rxLen
  split
  · exact Nat.le_of_lt_succ (be16 _ _).isLt
  · omega

/-- The length field of a buffer that holds one. -/
theorem rxLen_header (hi lo : Byte) (x : List Byte) :
    rxLen ([0xAA#8, 0x55#8, hi, lo] ++ x) = hi.toNat * 256 + lo.toNat := be16_toNat hi lo

end Sys2Proof.Machine
end

