-- ==== Sys2Proof/Laws/Crc16.lean ====
section
/-! SUPPORT. The algebra of the CRC step: each bit step is linear over XOR, so a byte enters the
running value by XOR; with an odd polynomial each bit step loses nothing; and a register whose
leading byte is clear only shifts. -/

namespace Sys2Proof.Machine

variable (poly rpoly c x y : Half)

theorem xor_cancel_between : (x ^^^ poly) ^^^ (y ^^^ poly) = x ^^^ y := by
  rw [BitVec.xor_comm y poly, BitVec.xor_assoc, ← BitVec.xor_assoc poly poly y, BitVec.xor_self,
    BitVec.zero_xor]

theorem crcShiftMsb_xor :
    crcShiftMsb poly (x ^^^ y) = crcShiftMsb poly x ^^^ crcShiftMsb poly y := by
  simp only [crcShiftMsb, BitVec.getLsbD_xor, BitVec.shiftLeft_xor_distrib]
  cases x.getLsbD 15 <;> cases y.getLsbD 15 <;>
    simp only [Bool.xor_false, Bool.xor_true, Bool.not_true, Bool.not_false, if_true,
      Bool.false_eq_true, if_false, xor_cancel_between] <;> ac_rfl

theorem crcShiftLsb_xor :
    crcShiftLsb rpoly (x ^^^ y) = crcShiftLsb rpoly x ^^^ crcShiftLsb rpoly y := by
  simp only [crcShiftLsb, BitVec.getLsbD_xor, BitVec.ushiftRight_xor_distrib]
  cases x.getLsbD 0 <;> cases y.getLsbD 0 <;>
    simp only [Bool.xor_false, Bool.xor_true, Bool.not_true, Bool.not_false, if_true,
      Bool.false_eq_true, if_false, xor_cancel_between] <;> ac_rfl

/-- Iterating a function that is linear over XOR is linear over XOR. -/
theorem iterate_xor {f : Half → Half} (hf : ∀ x y, f (x ^^^ y) = f x ^^^ f y) (n : Nat) :
    f^[n] (x ^^^ y) = f^[n] x ^^^ f^[n] y := by
  induction n generalizing x y with
  | zero => rfl
  | succ n ih => simp only [Function.iterate_succ_apply, hf, ih]

variable {poly rpoly c x y}

theorem xor_right_cancel16 {p : Half} (h : x ^^^ p = y ^^^ p) : x = y := by
  have := congrArg (· ^^^ p) h
  simpa [BitVec.xor_assoc] using this

/-- With an odd polynomial, bit 0 after the step tells whether bit 15 was set before it. -/
theorem crcShiftMsb_injective (hp : poly.getLsbD 0 = true) :
    Function.Injective (crcShiftMsb poly) := by
  intro x y h
  have h0 := congrArg (·.getLsbD 0) h
  have hb : x.getLsbD 15 = y.getLsbD 15 := by
    unfold crcShiftMsb at h0
    revert h0
    split <;> split <;> simp_all
  have hs : x <<< 1 = y <<< 1 := by
    unfold crcShiftMsb at h
    rw [hb] at h
    split at h
    · exact xor_right_cancel16 h
    · exact h
  apply BitVec.eq_of_getLsbD_eq
  intro i hi
  by_cases hi15 : i = 15
  · rw [hi15]; exact hb
  · have := congrArg (·.getLsbD (i + 1)) hs
    simpa [show i + 1 < 16 by omega, -BitVec.getLsbD_eq_getElem] using this

/-- The mirror image: bit 15 after the step tells whether bit 0 was set before it. -/
theorem crcShiftLsb_injective (hp : rpoly.getLsbD 15 = true) :
    Function.Injective (crcShiftLsb rpoly) := by
  intro x y h
  have h0 := congrArg (·.getLsbD 15) h
  have hb : x.getLsbD 0 = y.getLsbD 0 := by
    unfold crcShiftLsb at h0
    revert h0
    split <;> split <;> simp_all
  have hs : x >>> 1 = y >>> 1 := by
    unfold crcShiftLsb at h
    rw [hb] at h
    split at h
    · exact xor_right_cancel16 h
    · exact h
  apply BitVec.eq_of_getLsbD_eq
  intro i hi
  by_cases hi0 : i = 0
  · rw [hi0]; exact hb
  · have := congrArg (·.getLsbD (i - 1)) hs
    simpa [show 1 + (i - 1) = i by omega, -BitVec.getLsbD_eq_getElem] using this

theorem crcStepMsb_injective_value (hp : poly.getLsbD 0 = true) (b : Byte) :
    Function.Injective (crcStepMsb poly · b) := fun _ _ h =>
  xor_right_cancel16 ((crcShiftMsb_injective hp).iterate 8 h)

theorem crcStepLsb_injective_value (hp : poly.getLsbD 0 = true) (b : Byte) :
    Function.Injective (crcStepLsb poly · b) := fun _ _ h =>
  xor_right_cancel16
    ((crcShiftLsb_injective (by rw [rev16_getLsbD _ _ (by omega)]; exact hp)).iterate 8 h)

/-- With an odd polynomial no byte merges two running values. -/
theorem crcStep_injective_value (cfg : Config) (hp : cfg.crcPoly.getLsbD 0 = true) (b : Byte) :
    Function.Injective (crcStep cfg · b) := by
  intro x y h
  simp only [crcStep] at h
  split at h
  · exact crcStepLsb_injective_value hp b h
  · exact crcStepMsb_injective_value hp b h

/-- With an odd polynomial no running value hides which byte came. -/
theorem crcStep_injective_byte (cfg : Config) (hp : cfg.crcPoly.getLsbD 0 = true) (c : Half) :
    Function.Injective (crcStep cfg c) := by
  intro x y h
  simp only [crcStep] at h
  split at h
  · have h1 := (crcShiftLsb_injective (by rw [rev16_getLsbD _ _ (by omega)]; exact hp)).iterate 8 h
    rw [BitVec.xor_comm c, BitVec.xor_comm c] at h1
    simpa [zext16] using congrArg (BitVec.setWidth 8) (xor_right_cancel16 h1)
  · have h1 := (crcShiftMsb_injective hp).iterate 8 h
    rw [BitVec.xor_comm c, BitVec.xor_comm c] at h1
    apply BitVec.eq_of_getLsbD_eq
    intro i hi
    have h2 := congrArg (·.getLsbD (i + 8)) (xor_right_cancel16 h1)
    simpa [zext16, hi, show i + 8 < 16 by omega, show ¬ i + 8 < 8 by omega, show i < 16 by omega,
      -BitVec.getLsbD_eq_getElem] using h2

/-- A register whose top `n` bits are clear only shifts for `n` bit steps. -/
theorem crcShiftMsb_iterate_clear (n : Nat)
    (hx : ∀ k, 16 - n ≤ k → k < 16 → x.getLsbD k = false) :
    (crcShiftMsb poly)^[n] x = x <<< n := by
  induction n generalizing x with
  | zero => simp
  | succ n ih =>
    have h1 : crcShiftMsb poly x = x <<< 1 := by
      unfold crcShiftMsb
      rw [if_neg (by rw [hx 15 (by omega) (by omega)]; simp)]
    rw [Function.iterate_succ_apply, h1, ih, ← BitVec.shiftLeft_add, Nat.add_comm]
    intro k h2 h3
    rw [BitVec.getLsbD_shiftLeft]
    by_cases h : k < 1
    · simp [h]
    · rw [hx (k - 1) (by omega) (by omega)]; simp

/-- The mirror image: a register whose low `n` bits are clear. -/
theorem crcShiftLsb_iterate_clear (n : Nat) (hx : ∀ k, k < n → x.getLsbD k = false) :
    (crcShiftLsb rpoly)^[n] x = x >>> n := by
  induction n generalizing x with
  | zero => simp
  | succ n ih =>
    have h1 : crcShiftLsb rpoly x = x >>> 1 := by
      unfold crcShiftLsb
      rw [if_neg (by rw [hx 0 (by omega)]; simp)]
    rw [Function.iterate_succ_apply, h1, ih, ← BitVec.shiftRight_add, Nat.add_comm]
    intro k h2
    rw [BitVec.getLsbD_ushiftRight]
    exact hx _ (by omega)

end Sys2Proof.Machine
end

