-- ==== Sys2Proof/Laws/Decode.lean ====
section
/-! SUPPORT. The fields of a packed word, and of the word packed from them. -/

namespace Sys2Proof

theorem fieldOpc_packWord (opc a : Byte) (imm : Half) :
    fieldOpc (packWord opc a imm) = opc := by
  ext i hi
  simp only [fieldOpc, packWord, BitVec.getElem_extractLsb', BitVec.getLsbD_append]
  simp (disch := omega) [show ¬ 24 + i < 16 by omega, show ¬ 24 + i - 16 < 8 by omega,
    show 24 + i - 16 - 8 = i by omega, ← BitVec.getLsbD_eq_getElem]

theorem fieldA_packWord (opc a : Byte) (imm : Half) :
    fieldA (packWord opc a imm) = a := by
  ext i hi
  simp only [fieldA, packWord, BitVec.getElem_extractLsb', BitVec.getLsbD_append]
  simp [show ¬ 16 + i < 16 by omega, show 16 + i - 16 = i by omega,
    ← BitVec.getLsbD_eq_getElem, hi]

theorem fieldImm_packWord (opc a : Byte) (imm : Half) :
    fieldImm (packWord opc a imm) = imm := by
  ext i hi
  simp only [fieldImm, packWord, BitVec.getElem_extractLsb', BitVec.getLsbD_append]
  simp [hi, ← BitVec.getLsbD_eq_getElem]

theorem fieldImmHi_eq (w : Word) : fieldImmHi w = (fieldImm w).extractLsb' 8 8 := by
  ext i hi
  simp only [fieldImmHi, fieldImm, BitVec.getElem_extractLsb', BitVec.getLsbD_extractLsb']
  simp [show 8 + i < 16 by omega]

theorem fieldImmLo_eq (w : Word) : fieldImmLo w = (fieldImm w).extractLsb' 0 8 := by
  ext i hi
  simp only [fieldImmLo, fieldImm, BitVec.getElem_extractLsb', BitVec.getLsbD_extractLsb']
  simp [show i < 16 by omega]

theorem fieldImmHi_packWord_byte (opc a b : Byte) :
    fieldImmHi (packWord opc a (immOfByte b)) = 0 := by
  rw [fieldImmHi_eq, fieldImm_packWord]
  exact BitVec.extractLsb'_append_eq_left

theorem fieldImmLo_packWord_byte (opc a b : Byte) :
    fieldImmLo (packWord opc a (immOfByte b)) = b := by
  rw [fieldImmLo_eq, fieldImm_packWord]
  exact BitVec.extractLsb'_append_eq_right

/-- A word is the packing of its fields. -/
theorem packWord_fields (w : Word) : packWord (fieldOpc w) (fieldA w) (fieldImm w) = w := by
  apply BitVec.eq_of_getLsbD_eq
  intro i hi
  simp only [packWord, fieldOpc, fieldA, fieldImm, BitVec.getLsbD_append,
    BitVec.getLsbD_extractLsb']
  split_ifs with h1 h2
  · simp [h1]
  · simp [h2, show 16 + (i - 16) = i by omega]
  · simp [show i - 16 - 8 < 8 by omega, show 24 + (i - 16 - 8) = i by omega]

/-- A half whose high byte is zero is its low byte. -/
theorem immOfByte_fieldImmLo {w : Word} (h : fieldImmHi w = 0) :
    immOfByte (fieldImmLo w) = fieldImm w := by
  rw [immOfByte, show (0 : Byte) = fieldImmHi w from h.symm]
  apply BitVec.eq_of_getLsbD_eq
  intro i hi
  simp only [fieldImmHi, fieldImmLo, fieldImm, BitVec.getLsbD_append,
    BitVec.getLsbD_extractLsb']
  split_ifs with h1
  · simp [h1, hi]
  · simp [hi, show i - 8 < 8 by omega, show 8 + (i - 8) = i by omega]

/-- What a format accepts: the fields it marks 0 are zero and the data port is as it allows. -/
theorem accept_eq_ok {fields port : Bool} {i j : Instr} :
    accept fields port i = .ok j ↔ fields = true ∧ port = true ∧ i = j := by
  cases fields <;> cases port <;> simp [accept]

/-! What each format of R49 accepts. -/

variable {c : Command} {i j : Instr}

theorem formatF0_eq_ok : formatF0 c i = .ok j ↔
    fieldA c.word = 0 ∧ fieldImm c.word = 0 ∧ c.data = [] ∧ i = j := by
  simp [formatF0, accept_eq_ok, and_assoc]

theorem formatF16_eq_ok {mk : Half → Instr} : formatF16 c mk = .ok j ↔
    fieldA c.word = 0 ∧ c.data = [] ∧ mk (fieldImm c.word) = j := by
  simp [formatF16, accept_eq_ok]

theorem formatF8_eq_ok {mk : Byte → Instr} : formatF8 c mk = .ok j ↔
    fieldA c.word = 0 ∧ fieldImmHi c.word = 0 ∧ c.data = [] ∧ mk (fieldImmLo c.word) = j := by
  simp [formatF8, accept_eq_ok, and_assoc]

theorem formatFD_eq_ok {mk : List Byte → Instr} : formatFD c mk = .ok j ↔
    fieldA c.word = 0 ∧ fieldImm c.word = 0 ∧ mk c.data = j := by
  simp [formatFD, accept_eq_ok, and_assoc]

theorem formatFAD_eq_ok {mk : Byte → Byte → List Byte → Instr} : formatFAD c mk = .ok j ↔
    fieldImmHi c.word = 0 ∧ mk (fieldA c.word) (fieldImmLo c.word) c.data = j := by
  simp [formatFAD, accept_eq_ok]

theorem formatFA_eq_ok {mk : Byte → Instr} : formatFA c mk = .ok j ↔
    fieldImm c.word = 0 ∧ c.data = [] ∧ mk (fieldA c.word) = j := by
  simp [formatFA, accept_eq_ok]

/-- A command is known by its fields and its data. -/
theorem command_eq {opc a : Byte} {imm : Half} {d : List Byte} {c : Command}
    (ho : fieldOpc c.word = opc) (ha : fieldA c.word = a) (hi : fieldImm c.word = imm) (hd : c.data = d) :
    { word := packWord opc a imm, data := d } = c := by
  subst ho ha hi hd
  rw [packWord_fields]

end Sys2Proof
end

