-- ==== Sys2Proof/Laws/State.lean ====
section
/-! SUPPORT. What each named update of State does to each field, true by rfl, so that no proof
unfolds a record update. -/

namespace Sys2Proof.Machine

variable (s : State)

@[simp] theorem State.writeCrc_cfg (v : Half) : (s.writeCrc v).cfg = s.cfg := rfl
@[simp] theorem State.writeCrc_crcReg (v : Half) : (s.writeCrc v).crcReg = v := rfl
@[simp] theorem State.writeCrc_pstate (v : Half) : (s.writeCrc v).pstate = s.pstate := rfl
@[simp] theorem State.writeCrc_buf (v : Half) : (s.writeCrc v).buf = s.buf := rfl
@[simp] theorem State.writeCrc_errCount (v : Half) : (s.writeCrc v).errCount = s.errCount := rfl
@[simp] theorem State.writeCrc_msgValid (v : Half) : (s.writeCrc v).msgValid = s.msgValid := rfl
@[simp] theorem State.writeCrc_msgType (v : Half) : (s.writeCrc v).msgType = s.msgType := rfl
@[simp] theorem State.writeCrc_msgSeq (v : Half) : (s.writeCrc v).msgSeq = s.msgSeq := rfl
@[simp] theorem State.writeCrc_msgPayload (v : Half) :
    (s.writeCrc v).msgPayload = s.msgPayload := rfl
@[simp] theorem State.writeCrc_inputs (v : Half) : (s.writeCrc v).inputs = s.inputs := rfl
@[simp] theorem State.writeCrc_resultPort (v : Half) :
    (s.writeCrc v).resultPort = s.resultPort := rfl

@[simp] theorem State.writePState_cfg (p : PState) : (s.writePState p).cfg = s.cfg := rfl
@[simp] theorem State.writePState_crcReg (p : PState) : (s.writePState p).crcReg = s.crcReg := rfl
@[simp] theorem State.writePState_pstate (p : PState) : (s.writePState p).pstate = p := rfl
@[simp] theorem State.writePState_buf (p : PState) : (s.writePState p).buf = s.buf := rfl
@[simp] theorem State.writePState_errCount (p : PState) :
    (s.writePState p).errCount = s.errCount := rfl
@[simp] theorem State.writePState_msgValid (p : PState) :
    (s.writePState p).msgValid = s.msgValid := rfl
@[simp] theorem State.writePState_msgType (p : PState) :
    (s.writePState p).msgType = s.msgType := rfl
@[simp] theorem State.writePState_msgSeq (p : PState) : (s.writePState p).msgSeq = s.msgSeq := rfl
@[simp] theorem State.writePState_msgPayload (p : PState) :
    (s.writePState p).msgPayload = s.msgPayload := rfl
@[simp] theorem State.writePState_inputs (p : PState) : (s.writePState p).inputs = s.inputs := rfl
@[simp] theorem State.writePState_resultPort (p : PState) :
    (s.writePState p).resultPort = s.resultPort := rfl

@[simp] theorem State.bufAppend_cfg (b : Byte) : (s.bufAppend b).cfg = s.cfg := rfl
@[simp] theorem State.bufAppend_crcReg (b : Byte) : (s.bufAppend b).crcReg = s.crcReg := rfl
@[simp] theorem State.bufAppend_pstate (b : Byte) : (s.bufAppend b).pstate = s.pstate := rfl
@[simp] theorem State.bufAppend_buf (b : Byte) : (s.bufAppend b).buf = s.buf ++ [b] := rfl
@[simp] theorem State.bufAppend_errCount (b : Byte) : (s.bufAppend b).errCount = s.errCount := rfl
@[simp] theorem State.bufAppend_msgValid (b : Byte) : (s.bufAppend b).msgValid = s.msgValid := rfl
@[simp] theorem State.bufAppend_msgType (b : Byte) : (s.bufAppend b).msgType = s.msgType := rfl
@[simp] theorem State.bufAppend_msgSeq (b : Byte) : (s.bufAppend b).msgSeq = s.msgSeq := rfl
@[simp] theorem State.bufAppend_msgPayload (b : Byte) :
    (s.bufAppend b).msgPayload = s.msgPayload := rfl
@[simp] theorem State.bufAppend_inputs (b : Byte) : (s.bufAppend b).inputs = s.inputs := rfl
@[simp] theorem State.bufAppend_resultPort (b : Byte) :
    (s.bufAppend b).resultPort = s.resultPort := rfl

@[simp] theorem State.bufClear_cfg : (s.bufClear).cfg = s.cfg := rfl
@[simp] theorem State.bufClear_crcReg : (s.bufClear).crcReg = s.crcReg := rfl
@[simp] theorem State.bufClear_pstate : (s.bufClear).pstate = s.pstate := rfl
@[simp] theorem State.bufClear_buf : (s.bufClear).buf = [] := rfl
@[simp] theorem State.bufClear_errCount : (s.bufClear).errCount = s.errCount := rfl
@[simp] theorem State.bufClear_msgValid : (s.bufClear).msgValid = s.msgValid := rfl
@[simp] theorem State.bufClear_msgType : (s.bufClear).msgType = s.msgType := rfl
@[simp] theorem State.bufClear_msgSeq : (s.bufClear).msgSeq = s.msgSeq := rfl
@[simp] theorem State.bufClear_msgPayload : (s.bufClear).msgPayload = s.msgPayload := rfl
@[simp] theorem State.bufClear_inputs : (s.bufClear).inputs = s.inputs := rfl
@[simp] theorem State.bufClear_resultPort : (s.bufClear).resultPort = s.resultPort := rfl

@[simp] theorem State.countMismatch_cfg : (s.countMismatch).cfg = s.cfg := rfl
@[simp] theorem State.countMismatch_crcReg : (s.countMismatch).crcReg = s.crcReg := rfl
@[simp] theorem State.countMismatch_pstate : (s.countMismatch).pstate = s.pstate := rfl
@[simp] theorem State.countMismatch_buf : (s.countMismatch).buf = s.buf := rfl
@[simp] theorem State.countMismatch_errCount :
    (s.countMismatch).errCount = (s.errCount + 1) % 2 ^ s.cfg.errCountWidth := rfl
@[simp] theorem State.countMismatch_msgValid : (s.countMismatch).msgValid = s.msgValid := rfl
@[simp] theorem State.countMismatch_msgType : (s.countMismatch).msgType = s.msgType := rfl
@[simp] theorem State.countMismatch_msgSeq : (s.countMismatch).msgSeq = s.msgSeq := rfl
@[simp] theorem State.countMismatch_msgPayload : (s.countMismatch).msgPayload = s.msgPayload := rfl
@[simp] theorem State.countMismatch_inputs : (s.countMismatch).inputs = s.inputs := rfl
@[simp] theorem State.countMismatch_resultPort : (s.countMismatch).resultPort = s.resultPort := rfl

@[simp] theorem State.clearMsgValid_cfg : (s.clearMsgValid).cfg = s.cfg := rfl
@[simp] theorem State.clearMsgValid_crcReg : (s.clearMsgValid).crcReg = s.crcReg := rfl
@[simp] theorem State.clearMsgValid_pstate : (s.clearMsgValid).pstate = s.pstate := rfl
@[simp] theorem State.clearMsgValid_buf : (s.clearMsgValid).buf = s.buf := rfl
@[simp] theorem State.clearMsgValid_errCount : (s.clearMsgValid).errCount = s.errCount := rfl
@[simp] theorem State.clearMsgValid_msgValid : (s.clearMsgValid).msgValid = false := rfl
@[simp] theorem State.clearMsgValid_msgType : (s.clearMsgValid).msgType = s.msgType := rfl
@[simp] theorem State.clearMsgValid_msgSeq : (s.clearMsgValid).msgSeq = s.msgSeq := rfl
@[simp] theorem State.clearMsgValid_msgPayload : (s.clearMsgValid).msgPayload = s.msgPayload := rfl
@[simp] theorem State.clearMsgValid_inputs : (s.clearMsgValid).inputs = s.inputs := rfl
@[simp] theorem State.clearMsgValid_resultPort : (s.clearMsgValid).resultPort = s.resultPort := rfl

@[simp] theorem State.deliver_cfg (m : Message) : (s.deliver m).cfg = s.cfg := rfl
@[simp] theorem State.deliver_crcReg (m : Message) : (s.deliver m).crcReg = s.crcReg := rfl
@[simp] theorem State.deliver_pstate (m : Message) : (s.deliver m).pstate = s.pstate := rfl
@[simp] theorem State.deliver_buf (m : Message) : (s.deliver m).buf = s.buf := rfl
@[simp] theorem State.deliver_errCount (m : Message) : (s.deliver m).errCount = s.errCount := rfl
@[simp] theorem State.deliver_msgValid (m : Message) : (s.deliver m).msgValid = true := rfl
@[simp] theorem State.deliver_msgType (m : Message) : (s.deliver m).msgType = m.type := rfl
@[simp] theorem State.deliver_msgSeq (m : Message) : (s.deliver m).msgSeq = m.sequence := rfl
@[simp] theorem State.deliver_msgPayload (m : Message) : (s.deliver m).msgPayload = m.payload := rfl
@[simp] theorem State.deliver_inputs (m : Message) : (s.deliver m).inputs = s.inputs := rfl
@[simp] theorem State.deliver_resultPort (m : Message) :
    (s.deliver m).resultPort = s.resultPort := rfl

@[simp] theorem State.respond_cfg (r : Response) : (s.respond r).cfg = s.cfg := rfl
@[simp] theorem State.respond_crcReg (r : Response) : (s.respond r).crcReg = s.crcReg := rfl
@[simp] theorem State.respond_pstate (r : Response) : (s.respond r).pstate = s.pstate := rfl
@[simp] theorem State.respond_buf (r : Response) : (s.respond r).buf = s.buf := rfl
@[simp] theorem State.respond_errCount (r : Response) : (s.respond r).errCount = s.errCount := rfl
@[simp] theorem State.respond_msgValid (r : Response) : (s.respond r).msgValid = s.msgValid := rfl
@[simp] theorem State.respond_msgType (r : Response) : (s.respond r).msgType = s.msgType := rfl
@[simp] theorem State.respond_msgSeq (r : Response) : (s.respond r).msgSeq = s.msgSeq := rfl
@[simp] theorem State.respond_msgPayload (r : Response) :
    (s.respond r).msgPayload = s.msgPayload := rfl
@[simp] theorem State.respond_inputs (r : Response) : (s.respond r).inputs = s.inputs := rfl
@[simp] theorem State.respond_resultPort (r : Response) : (s.respond r).resultPort = some r := rfl

@[simp] theorem State.setInputs_cfg (es : List PortEvent) : (s.setInputs es).cfg = s.cfg := rfl
@[simp] theorem State.setInputs_crcReg (es : List PortEvent) :
    (s.setInputs es).crcReg = s.crcReg := rfl
@[simp] theorem State.setInputs_pstate (es : List PortEvent) :
    (s.setInputs es).pstate = s.pstate := rfl
@[simp] theorem State.setInputs_buf (es : List PortEvent) : (s.setInputs es).buf = s.buf := rfl
@[simp] theorem State.setInputs_errCount (es : List PortEvent) :
    (s.setInputs es).errCount = s.errCount := rfl
@[simp] theorem State.setInputs_msgValid (es : List PortEvent) :
    (s.setInputs es).msgValid = s.msgValid := rfl
@[simp] theorem State.setInputs_msgType (es : List PortEvent) :
    (s.setInputs es).msgType = s.msgType := rfl
@[simp] theorem State.setInputs_msgSeq (es : List PortEvent) :
    (s.setInputs es).msgSeq = s.msgSeq := rfl
@[simp] theorem State.setInputs_msgPayload (es : List PortEvent) :
    (s.setInputs es).msgPayload = s.msgPayload := rfl
@[simp] theorem State.setInputs_inputs (es : List PortEvent) : (s.setInputs es).inputs = es := rfl
@[simp] theorem State.setInputs_resultPort (es : List PortEvent) :
    (s.setInputs es).resultPort = s.resultPort := rfl

@[simp] theorem State.powerOn_cfg (cfg : Config) (es : List PortEvent) :
    (State.powerOn cfg es).cfg = cfg := rfl
@[simp] theorem State.powerOn_crcReg (cfg : Config) (es : List PortEvent) :
    (State.powerOn cfg es).crcReg = crcInitValue := rfl
@[simp] theorem State.powerOn_pstate (cfg : Config) (es : List PortEvent) :
    (State.powerOn cfg es).pstate = .idle := rfl
@[simp] theorem State.powerOn_buf (cfg : Config) (es : List PortEvent) :
    (State.powerOn cfg es).buf = [] := rfl
@[simp] theorem State.powerOn_errCount (cfg : Config) (es : List PortEvent) :
    (State.powerOn cfg es).errCount = 0 := rfl
@[simp] theorem State.powerOn_msgValid (cfg : Config) (es : List PortEvent) :
    (State.powerOn cfg es).msgValid = false := rfl
@[simp] theorem State.powerOn_msgType (cfg : Config) (es : List PortEvent) :
    (State.powerOn cfg es).msgType = 0 := rfl
@[simp] theorem State.powerOn_msgSeq (cfg : Config) (es : List PortEvent) :
    (State.powerOn cfg es).msgSeq = 0 := rfl
@[simp] theorem State.powerOn_msgPayload (cfg : Config) (es : List PortEvent) :
    (State.powerOn cfg es).msgPayload = [] := rfl
@[simp] theorem State.powerOn_inputs (cfg : Config) (es : List PortEvent) :
    (State.powerOn cfg es).inputs = es := rfl
@[simp] theorem State.powerOn_resultPort (cfg : Config) (es : List PortEvent) :
    (State.powerOn cfg es).resultPort = none := rfl

end Sys2Proof.Machine
end

