-- ==== Sys2Proof/Laws/Ops.lean ====
section
/-! SUPPORT. The four ways a command or a step ends, each said once. -/

namespace Sys2Proof.Machine

variable {s t : State} {r : Response} {st : Status}

theorem finish_eq_next : finish s r = .next t ↔ t = { s with resultPort := some r } := by
  simp [finish, State.respond, eq_comm]

theorem raise_eq_next :
    raise st s = .next t ↔ t = { s with resultPort := some { status := st } } := by
  simp [raise, State.respond, Response.error, eq_comm]

theorem powerCycle_eq_next : powerCycle s = .next t ↔ t = State.powerOn s.cfg s.inputs := by
  simp [powerCycle, eq_comm]

theorem idleStep_eq_next : idleStep s = .next t ↔ t = s := by simp [idleStep, eq_comm]

end Sys2Proof.Machine
end

