-- ==== Sys2Proof/Laws/Parser.lean ====
section
/-! SUPPORT. What one byte does to the parser, said once per parser state as a whole new state
(R76 to R81); what no byte changes; and that feeding is a fold. Later proofs cite these and do not
unfold `pstep`. -/

namespace Sys2Proof.Machine

variable {s : State} {b : Byte}

@[simp] theorem feed_nil (s : State) : feed s [] = (s, []) := rfl

/-! ## One byte, by parser state -/

theorem feedByte_idle (h : s.pstate = .idle) :
    feedByte s b =
      (if b = 0xAA#8 then
          { s with msgValid := false, buf := s.buf ++ [b], pstate := .readingHeader }
        else { s with msgValid := false }, none) := by
  cases s; cases h; rfl

theorem feedByte_header (h : s.pstate = .readingHeader) :
    feedByte s b =
      (if b = 0x55#8 then
          { s with msgValid := false, buf := s.buf ++ [b], pstate := .readingLength }
        else if b = 0xAA#8 then { s with msgValid := false }
        else { s with msgValid := false, buf := [], pstate := .idle }, none) := by
  cases s; cases h; rfl

theorem feedByte_length (h : s.pstate = .readingLength) :
    feedByte s b =
      ({ s with
          msgValid := false, buf := s.buf ++ [b]
          pstate := if s.buf.length = 3 then .readingPayload else .readingLength }, none) := by
  have : feedByte s b = (pstepLength s.clearMsgValid b, none) := by cases s; cases h; rfl
  rw [this]
  by_cases h3 : s.buf.length = 3 <;> simp [pstepLength, h3, h, State.bufAppend,
    State.clearMsgValid, State.writePState]

theorem feedByte_payload (h : s.pstate = .readingPayload) :
    feedByte s b =
      ({ s with
          msgValid := false, buf := s.buf ++ [b]
          pstate := if s.buf.length + 1 = 6 + rxLen (s.buf ++ [b]) then .readingCrc
            else .readingPayload }, none) := by
  have : feedByte s b = (pstepPayload s.clearMsgValid b, none) := by cases s; cases h; rfl
  rw [this]
  by_cases hn : s.buf.length + 1 = 6 + rxLen (s.buf ++ [b]) <;>
    simp [pstepPayload, hn, h, State.bufAppend, State.clearMsgValid, State.writePState]

theorem feedByte_crc (h : s.pstate = .readingCrc) :
    feedByte s b = pstepCrc s.clearMsgValid b := by
  cases s; cases h; rfl

/-- A byte of the CRC field that is not the frame's last. -/
theorem feedByte_crc_more (h : s.pstate = .readingCrc)
    (hn : s.buf.length + 1 ≠ 8 + rxLen (s.buf ++ [b])) :
    feedByte s b = ({ s with msgValid := false, buf := s.buf ++ [b] }, none) := by
  rw [feedByte_crc h, pstepCrc, if_neg (by simpa using hn)]
  rfl

/-- The last byte of a frame with a good CRC. -/
theorem feedByte_crc_good (h : s.pstate = .readingCrc)
    (hn : s.buf.length + 1 = 8 + rxLen (s.buf ++ [b]))
    (hc : crc16 s.cfg (crcCovered (s.buf ++ [b])) = receivedCrc (s.buf ++ [b])) :
    feedByte s b =
      ({ s with
          msgValid := true, buf := [], pstate := .idle
          msgType := (messageOf (s.buf ++ [b])).type
          msgSeq := (messageOf (s.buf ++ [b])).sequence
          msgPayload := (messageOf (s.buf ++ [b])).payload },
        some (messageOf (s.buf ++ [b]))) := by
  rw [feedByte_crc h, pstepCrc, if_pos (by simpa using hn), completeFrame, if_pos (by exact hc)]
  rfl

/-- The last byte of a frame with a wrong CRC. -/
theorem feedByte_crc_bad (h : s.pstate = .readingCrc)
    (hn : s.buf.length + 1 = 8 + rxLen (s.buf ++ [b]))
    (hc : crc16 s.cfg (crcCovered (s.buf ++ [b])) ≠ receivedCrc (s.buf ++ [b])) :
    feedByte s b =
      ({ s with
          msgValid := false, buf := [], pstate := .idle
          errCount := (s.errCount + 1) % 2 ^ s.cfg.errCountWidth }, none) := by
  rw [feedByte_crc h, pstepCrc, if_pos (by simpa using hn), completeFrame, if_neg (by exact hc)]
  rfl

/-! ## What no byte changes -/

/-- A byte changes neither the parameters, nor `crc_reg`, nor the ports. -/
theorem feedByte_frame (s : State) (b : Byte) :
    (feedByte s b).1.cfg = s.cfg ∧ (feedByte s b).1.crcReg = s.crcReg ∧
      (feedByte s b).1.inputs = s.inputs ∧ (feedByte s b).1.resultPort = s.resultPort := by
  cases h : s.pstate with
  | idle => rw [feedByte_idle h]; dsimp only; split <;> simp
  | readingHeader => rw [feedByte_header h]; dsimp only; split_ifs <;> simp
  | readingLength => rw [feedByte_length h]; simp
  | readingPayload => rw [feedByte_payload h]; simp
  | readingCrc =>
    by_cases hn : s.buf.length + 1 = 8 + rxLen (s.buf ++ [b])
    · by_cases hc : crc16 s.cfg (crcCovered (s.buf ++ [b])) = receivedCrc (s.buf ++ [b])
      · rw [feedByte_crc_good h hn hc]; simp
      · rw [feedByte_crc_bad h hn hc]; simp
    · rw [feedByte_crc_more h hn]; simp

/-- Feeding changes neither the parameters, nor `crc_reg`, nor the ports. -/
theorem feed_frame (s : State) (d : List Byte) :
    (feed s d).1.cfg = s.cfg ∧ (feed s d).1.crcReg = s.crcReg ∧
      (feed s d).1.inputs = s.inputs ∧ (feed s d).1.resultPort = s.resultPort := by
  induction d generalizing s with
  | nil => simp [feed]
  | cons b d ih =>
    obtain ⟨h1, h2, h3, h4⟩ := feedByte_frame s b
    obtain ⟨g1, g2, g3, g4⟩ := ih (feedByte s b).1
    exact ⟨g1.trans h1, g2.trans h2, g3.trans h3, g4.trans h4⟩

/-! ## What no byte depends on -/

/-- A byte reads neither the result port nor the input stream nor `crc_reg`. -/
theorem feedByte_respond (s : State) (b : Byte) (r : Response) :
    feedByte (s.respond r) b = ((feedByte s b).1.respond r, (feedByte s b).2) := by
  cases h : s.pstate with
  | idle => rw [feedByte_idle h, feedByte_idle (s := s.respond r) h]; dsimp only; split <;> rfl
  | readingHeader =>
    rw [feedByte_header h, feedByte_header (s := s.respond r) h]; dsimp only; split_ifs <;> rfl
  | readingLength => rw [feedByte_length h, feedByte_length (s := s.respond r) h]; rfl
  | readingPayload => rw [feedByte_payload h, feedByte_payload (s := s.respond r) h]; rfl
  | readingCrc =>
    by_cases hn : s.buf.length + 1 = 8 + rxLen (s.buf ++ [b])
    · by_cases hc : crc16 s.cfg (crcCovered (s.buf ++ [b])) = receivedCrc (s.buf ++ [b])
      · rw [feedByte_crc_good h hn hc, feedByte_crc_good (s := s.respond r) h hn hc]; rfl
      · rw [feedByte_crc_bad h hn hc, feedByte_crc_bad (s := s.respond r) h hn hc]; rfl
    · rw [feedByte_crc_more h hn, feedByte_crc_more (s := s.respond r) h hn]; rfl

theorem feedByte_writeCrc (s : State) (b : Byte) (v : Half) :
    feedByte (s.writeCrc v) b = ((feedByte s b).1.writeCrc v, (feedByte s b).2) := by
  cases h : s.pstate with
  | idle => rw [feedByte_idle h, feedByte_idle (s := s.writeCrc v) h]; dsimp only; split <;> rfl
  | readingHeader =>
    rw [feedByte_header h, feedByte_header (s := s.writeCrc v) h]; dsimp only; split_ifs <;> rfl
  | readingLength => rw [feedByte_length h, feedByte_length (s := s.writeCrc v) h]; rfl
  | readingPayload => rw [feedByte_payload h, feedByte_payload (s := s.writeCrc v) h]; rfl
  | readingCrc =>
    by_cases hn : s.buf.length + 1 = 8 + rxLen (s.buf ++ [b])
    · by_cases hc : crc16 s.cfg (crcCovered (s.buf ++ [b])) = receivedCrc (s.buf ++ [b])
      · rw [feedByte_crc_good h hn hc, feedByte_crc_good (s := s.writeCrc v) h hn hc]; rfl
      · rw [feedByte_crc_bad h hn hc, feedByte_crc_bad (s := s.writeCrc v) h hn hc]; rfl
    · rw [feedByte_crc_more h hn, feedByte_crc_more (s := s.writeCrc v) h hn]; rfl

theorem feedByte_setInputs (s : State) (b : Byte) (es : List PortEvent) :
    feedByte (s.setInputs es) b = ((feedByte s b).1.setInputs es, (feedByte s b).2) := by
  cases h : s.pstate with
  | idle => rw [feedByte_idle h, feedByte_idle (s := s.setInputs es) h]; dsimp only; split <;> rfl
  | readingHeader =>
    rw [feedByte_header h, feedByte_header (s := s.setInputs es) h]; dsimp only; split_ifs <;> rfl
  | readingLength => rw [feedByte_length h, feedByte_length (s := s.setInputs es) h]; rfl
  | readingPayload => rw [feedByte_payload h, feedByte_payload (s := s.setInputs es) h]; rfl
  | readingCrc =>
    by_cases hn : s.buf.length + 1 = 8 + rxLen (s.buf ++ [b])
    · by_cases hc : crc16 s.cfg (crcCovered (s.buf ++ [b])) = receivedCrc (s.buf ++ [b])
      · rw [feedByte_crc_good h hn hc, feedByte_crc_good (s := s.setInputs es) h hn hc]; rfl
      · rw [feedByte_crc_bad h hn hc, feedByte_crc_bad (s := s.setInputs es) h hn hc]; rfl
    · rw [feedByte_crc_more h hn, feedByte_crc_more (s := s.setInputs es) h hn]; rfl

theorem feed_respond (s : State) (d : List Byte) (r : Response) :
    feed (s.respond r) d = ((feed s d).1.respond r, (feed s d).2) := by
  induction d generalizing s with
  | nil => rfl
  | cons b d ih => simp [feed, feedByte_respond, ih]

theorem feed_writeCrc (s : State) (d : List Byte) (v : Half) :
    feed (s.writeCrc v) d = ((feed s d).1.writeCrc v, (feed s d).2) := by
  induction d generalizing s with
  | nil => rfl
  | cons b d ih => simp [feed, feedByte_writeCrc, ih]

theorem feed_setInputs (s : State) (d : List Byte) (es : List PortEvent) :
    feed (s.setInputs es) d = ((feed s d).1.setInputs es, (feed s d).2) := by
  induction d generalizing s with
  | nil => rfl
  | cons b d ih => simp [feed, feedByte_setInputs, ih]

/-! ## Feeding is a fold -/

theorem feed_append (s : State) (a d : List Byte) :
    feed s (a ++ d) = ((feed (feed s a).1 d).1, (feed s a).2 ++ (feed (feed s a).1 d).2) := by
  induction a generalizing s with
  | nil => simp
  | cons b a ih => simp [feed, ih]

/-- Clearing `msg_valid` first makes no difference to a byte. -/
theorem feedByte_clearMsgValid (s : State) (b : Byte) :
    feedByte s.clearMsgValid b = feedByte s b := rfl

/-- Clearing `msg_valid` first makes no difference to a sequence with a byte in it. -/
theorem feed_clearMsgValid_cons (s : State) (b : Byte) (d : List Byte) :
    feed s.clearMsgValid (b :: d) = feed s (b :: d) := rfl

/-! ## The invariant and whole frames -/

theorem take2_append {l : List Byte} (h : 2 ≤ l.length) (m : List Byte) :
    (l ++ m).take 2 = l.take 2 := by
  match l, h with
  | _ :: _ :: _, _ => rfl

/-- A buffer of two bytes or more, with one more, is not the lone 0xAA of ReadingHeader. -/
theorem append_ne_lone {l : List Byte} (h : 1 ≤ l.length) (c : Byte) : ¬ l ++ [b] = [c] := by
  intro he
  have := congrArg List.length he
  simp only [List.length_append, List.length_singleton] at this
  omega

/-- A byte keeps the invariant of R23. -/
theorem feedByte_keeps_parserInv (hs : ParserInv s) : ParserInv (feedByte s b).1 := by
  obtain ⟨h1, h2, h3, h4, h5⟩ := hs
  cases h : s.pstate with
  | idle =>
    have hb : s.buf = [] := List.length_eq_zero_iff.mp (h1.mp h)
    rw [feedByte_idle h]
    dsimp only
    split
    · next hb' => subst hb'; simp [ParserInv, hb]
    · simp [ParserInv, hb, h, rxLen]
  | readingHeader =>
    have hb := h2.mp h
    rw [feedByte_header h]
    dsimp only
    split_ifs with ha hb'
    · subst ha; simp [ParserInv, hb]
    · simp [ParserInv, hb, h]
    · simp [ParserInv, rxLen]
  | readingLength =>
    obtain ⟨hl, ht⟩ := h3.mp h
    have ht' := take2_append (show 2 ≤ s.buf.length by omega) [b]
    have hne := append_ne_lone (b := b) (show 1 ≤ s.buf.length by omega) 170#8
    rw [feedByte_length h]
    rcases hl with hl | hl
    · simp [ParserInv, hl, ht', ht, hne]
    · simp [ParserInv, hl, ht', ht, hne]
      omega
  | readingPayload =>
    obtain ⟨hl, ht, hn⟩ := h4.mp h
    have ht' := take2_append (show 2 ≤ s.buf.length by omega) [b]
    have hne := append_ne_lone (b := b) (show 1 ≤ s.buf.length by omega) 170#8
    rw [feedByte_payload h, rxLen_append hl]
    by_cases hn' : s.buf.length + 1 = 6 + rxLen s.buf <;>
      simp [ParserInv, rxLen_append hl, hn', ht', ht, hne] <;> omega
  | readingCrc =>
    obtain ⟨hl, ht, hn, hm⟩ := h5.mp h
    have ht' := take2_append (show 2 ≤ s.buf.length by omega) [b]
    have hne := append_ne_lone (b := b) (show 1 ≤ s.buf.length by omega) 170#8
    by_cases hn' : s.buf.length + 1 = 8 + rxLen (s.buf ++ [b])
    · by_cases hc : crc16 s.cfg (crcCovered (s.buf ++ [b])) = receivedCrc (s.buf ++ [b])
      · rw [feedByte_crc_good h hn' hc]; simp [ParserInv, rxLen]
      · rw [feedByte_crc_bad h hn' hc]; simp [ParserInv, rxLen]
    · rw [feedByte_crc_more h hn']
      rw [rxLen_append hl] at hn'
      simp [ParserInv, h, rxLen_append hl, ht', ht, hne]
      omega

/-- The state before a frame's last byte is ReadingCrc. -/
theorem pstate_before_last_byte (hs : ParserInv s) (hl : 4 ≤ s.buf.length)
    (hn : s.buf.length + 1 = 8 + rxLen s.buf) : s.pstate = .readingCrc := by
  obtain ⟨h1, h2, h3, h4, h5⟩ := hs
  cases h : s.pstate with
  | idle => have := h1.mp h; omega
  | readingHeader => have := h2.mp h; simp [this] at hl
  | readingLength => have := h3.mp h; omega
  | readingPayload => have := h4.mp h; omega
  | readingCrc => rfl

/-- A byte that does not complete the frame is appended. -/
theorem feedByte_inside_frame (hs : ParserInv s) (hl : 4 ≤ s.buf.length)
    (hn : s.buf.length + 1 < 8 + rxLen s.buf) :
    (feedByte s b).2 = none ∧ (feedByte s b).1.buf = s.buf ++ [b] ∧
      (feedByte s b).1.errCount = s.errCount := by
  obtain ⟨h1, h2, h3, h4, h5⟩ := hs
  cases h : s.pstate with
  | idle => have := h1.mp h; omega
  | readingHeader => have := h2.mp h; simp [this] at hl
  | readingLength => have := h3.mp h; omega
  | readingPayload => rw [feedByte_payload h]; simp
  | readingCrc => rw [feedByte_crc_more h (by rw [rxLen_append hl]; omega)]; simp

/-- Inside a frame every byte is appended: nothing completes and nothing is counted. -/
theorem feed_inside_frame (hs : ParserInv s) (y : List Byte) (hl : 4 ≤ s.buf.length)
    (hy : s.buf.length + y.length < 8 + rxLen s.buf) :
    (feed s y).2 = [] ∧ (feed s y).1.buf = s.buf ++ y ∧ (feed s y).1.errCount = s.errCount ∧
      ParserInv (feed s y).1 := by
  induction y generalizing s with
  | nil => exact ⟨rfl, by simp, rfl, hs⟩
  | cons b y ih =>
    simp only [List.length_cons] at hy
    obtain ⟨k1, k2, k3⟩ := feedByte_inside_frame (b := b) hs hl (by omega)
    obtain ⟨i1, i2, i3, i4⟩ := ih (feedByte_keeps_parserInv (b := b) hs)
      (by rw [k2]; simp; omega) (by rw [k2, rxLen_append hl]; simp; omega)
    refine ⟨?_, ?_, ?_, i4⟩ <;> simp [feed, k1, i1, i2, i3, k2, k3]

/-- The four bytes that open a frame, from Idle or after a false start. -/
theorem feed_header (hs : ParserInv s) (hp : s.pstate = .idle ∨ s.pstate = .readingHeader)
    (hi lo : Byte) :
    (feed s [0xAA#8, 0x55#8, hi, lo]).2 = [] ∧
      (feed s [0xAA#8, 0x55#8, hi, lo]).1.buf = [0xAA#8, 0x55#8, hi, lo] ∧
      (feed s [0xAA#8, 0x55#8, hi, lo]).1.errCount = s.errCount ∧
      ParserInv (feed s [0xAA#8, 0x55#8, hi, lo]).1 := by
  have hinv : ParserInv (feed s [0xAA#8, 0x55#8, hi, lo]).1 := by
    simp only [feed]
    iterate 4 apply feedByte_keeps_parserInv
    exact hs
  refine ⟨?_, ?_, ?_, hinv⟩ <;> rcases hp with hp | hp <;>
    simp [feed, feedByte_idle, feedByte_header, feedByte_length, hp,
      List.length_eq_zero_iff.mp, hs.1.mp, hs.2.1.mp]

/-- A frame is over: the parser is in Idle with nothing in `buf`. -/
abbrev FrameOver (s : State) : Prop := s.pstate = .idle ∧ s.buf = []

/-- A header, a length `l` and `l + 4` more bytes: one message if the CRC agrees, one mismatch if
not, and Idle again either way. -/
theorem feed_whole_frame (hs : ParserInv s) (hp : s.pstate = .idle ∨ s.pstate = .readingHeader)
    {hi lo : Byte} {x f : List Byte} (hf : f = [0xAA#8, 0x55#8, hi, lo] ++ x)
    (hx : x.length = hi.toNat * 256 + lo.toNat + 4) :
    FrameOver (feed s f).1 ∧
      (crc16 s.cfg (crcCovered f) = receivedCrc f →
        (feed s f).2 = [messageOf f] ∧ (feed s f).1.errCount = s.errCount ∧
          (feed s f).1.msgValid = true) ∧
      (crc16 s.cfg (crcCovered f) ≠ receivedCrc f →
        (feed s f).2 = [] ∧
          (feed s f).1.errCount = (s.errCount + 1) % 2 ^ s.cfg.errCountWidth) := by
  subst hf
  obtain ⟨g1, g2, g3, g4⟩ := feed_header hs hp hi lo
  have hx0 : x ≠ [] := by rintro rfl; simp at hx
  obtain ⟨y, b, rfl⟩ : ∃ y b, x = y ++ [b] :=
    ⟨_, _, (List.dropLast_append_getLast hx0).symm⟩
  have hL := rxLen_header hi lo []
  simp only [List.append_nil] at hL
  obtain ⟨m1, m2, m3, m4⟩ := feed_inside_frame g4 y (by rw [g2]; simp)
    (by rw [g2, hL]; simp at hx ⊢; omega)
  have hc := ((feed_frame (feed s [0xAA#8, 0x55#8, hi, lo]).1 y).1).trans
    (feed_frame s [0xAA#8, 0x55#8, hi, lo]).1
  rw [← List.append_assoc, feed_append s _ [b], feed_append s _ y]
  dsimp only
  rw [g1, m1]
  rw [g2] at m2
  rw [g3] at m3
  generalize (feed (feed s [0xAA#8, 0x55#8, hi, lo]).1 y).1 = u at *
  have hr : rxLen u.buf = hi.toNat * 256 + lo.toNat := by rw [m2, rxLen_append (by simp), hL]
  have hu : u.buf.length + 1 = 8 + rxLen u.buf := by rw [hr, m2]; simp at hx ⊢; omega
  have hu4 : 4 ≤ u.buf.length := by omega
  have hst := pstate_before_last_byte m4 hu4 hu
  have hu' : u.buf.length + 1 = 8 + rxLen (u.buf ++ [b]) := by rw [rxLen_append hu4]; exact hu
  rw [← m2, ← hc, ← m3]
  by_cases hg : crc16 u.cfg (crcCovered (u.buf ++ [b])) = receivedCrc (u.buf ++ [b])
  · simp [feed, feedByte_crc_good hst hu' hg, hg, FrameOver]
  · simp [feed, feedByte_crc_bad hst hu' hg, hg, FrameOver]

end Sys2Proof.Machine
end

