-- ==== Sys2Proof/Laws/Exec.lean ====
section
/-! SUPPORT. The meanings of the commands as equations between states, and that no command looks at
the input stream. -/

namespace Sys2Proof.Machine

/-- PRS_BYTE is one `feedByte` and a response. -/
theorem exec_prsByte (b : Byte) (s : State) :
    exec (.prsByte b) s =
      .next ((feedByte s b).1.respond
        { status := .ok, done := (feedByte s b).2.isSome, msg := (feedByte s b).2 }) := rfl

/-- PRS_BUF is one `feed` and a response. -/
theorem exec_prsBuf (d : List Byte) (s : State) :
    exec (.prsBuf d) s =
      .next ((feed s.clearMsgValid d).1.respond
        { status := .ok, msgs := (feed s.clearMsgValid d).2 }) := rfl

theorem exec_encBuild_long (t q : Byte) {d : List Byte} (s : State) (h : maxPayload < d.length) :
    exec (.encBuild t q d) s = .next (s.respond (Response.error .payloadTooLarge)) := by
  simp only [exec, execEncBuild, if_pos h, raise]

theorem exec_encBuild_fits (t q : Byte) {d : List Byte} (s : State) (h : ¬ maxPayload < d.length) :
    exec (.encBuild t q d) s =
      .next (s.respond { status := .ok, frame := buildFrame s.cfg t q d }) := by
  simp only [exec, execEncBuild, if_neg h, finish]

theorem exec_regRead_some {n : Byte} {s : State} {v : Word} (h : statusRegister n s = some v) :
    exec (.regRead n) s = .next (s.respond { status := .ok, regValue := v }) := by
  simp only [exec, execRegRead, h, finish]

theorem exec_regRead_none {n : Byte} {s : State} (h : statusRegister n s = none) :
    exec (.regRead n) s = .next (s.respond (Response.error .illegalCommand)) := by
  simp only [exec, execRegRead, h, raise]

/-- A command neither reads nor writes the input stream. -/
theorem exec_setInputs (i : Instr) (s : State) (es : List PortEvent) :
    ∃ t, exec i s = .next t ∧ exec i (s.setInputs es) = .next (t.setInputs es) ∧
      t.inputs = s.inputs := by
  cases i with
  | prsByte b =>
    refine ⟨_, exec_prsByte b s, ?_, (feedByte_frame s b).2.2.1⟩
    rw [exec_prsByte, feedByte_setInputs]; rfl
  | prsBuf d =>
    refine ⟨_, exec_prsBuf d s, ?_, (feed_frame s.clearMsgValid d).2.2.1⟩
    rw [exec_prsBuf, show (s.setInputs es).clearMsgValid = s.clearMsgValid.setInputs es from rfl,
      feed_setInputs]; rfl
  | encBuild t q d =>
    by_cases h : maxPayload < d.length
    · exact ⟨_, exec_encBuild_long t q s h, exec_encBuild_long t q _ h, rfl⟩
    · exact ⟨_, exec_encBuild_fits t q s h, exec_encBuild_fits t q _ h, rfl⟩
  | regRead n =>
    cases h : statusRegister n s with
    | none => exact ⟨_, exec_regRead_none h, exec_regRead_none (s := s.setInputs es) h, rfl⟩
    | some v => exact ⟨_, exec_regRead_some h, exec_regRead_some (s := s.setInputs es) h, rfl⟩
  | crcInit => exact ⟨_, rfl, rfl, rfl⟩
  | crcLoad imm => exact ⟨_, rfl, rfl, rfl⟩
  | crcByte b => exact ⟨_, rfl, rfl, rfl⟩
  | crcBuf d => exact ⟨_, rfl, rfl, rfl⟩
  | crcRead => exact ⟨_, rfl, rfl, rfl⟩
  | encValidate d => exact ⟨_, rfl, rfl, rfl⟩
  | prsReset => exact ⟨_, rfl, rfl, rfl⟩

end Sys2Proof.Machine
end

