-- ==== Sys2Proof/Laws/PerInstr.lean ====
section
/-! SUPPORT. One lemma per constructor of Instr: the word a command is encoded to has the opcode and
the zero fields of its row of spec/opcode_table.json. -/

namespace Sys2Proof.Laws.EncodingRow

/-- The opcode of a command's row (R51). -/
def opcode : Instr → Byte
  | .crcInit => 0x01
  | .crcLoad _ => 0x02
  | .crcByte _ => 0x03
  | .crcBuf _ => 0x04
  | .crcRead => 0x05
  | .encBuild _ _ _ => 0x10
  | .encValidate _ => 0x11
  | .prsByte _ => 0x20
  | .prsBuf _ => 0x21
  | .prsReset => 0x22
  | .regRead _ => 0x30

/-- The `A` field of a command: its type or register number, or 0 (R49). -/
def fieldOfA : Instr → Byte
  | .encBuild t _ _ => t
  | .regRead n => n
  | .crcInit => 0
  | .crcLoad _ => 0
  | .crcByte _ => 0
  | .crcBuf _ => 0
  | .crcRead => 0
  | .encValidate _ => 0
  | .prsByte _ => 0
  | .prsBuf _ => 0
  | .prsReset => 0

/-- The word of a command has its row's opcode and its `A` field. -/
def Statement (i : Instr) : Prop :=
  fieldOpc (encode i).word = opcode i ∧ fieldA (encode i).word = fieldOfA i

/-- A packed word has the opcode and `A` it was packed from. -/
theorem packed (opc a : Byte) (imm : Half) :
    fieldOpc (packWord opc a imm) = opc ∧ fieldA (packWord opc a imm) = a :=
  ⟨fieldOpc_packWord opc a imm, fieldA_packWord opc a imm⟩

theorem crcInit : Statement .crcInit := packed _ _ _
theorem crcLoad (imm : Half) : Statement (.crcLoad imm) := packed _ _ _
theorem crcByte (b : Byte) : Statement (.crcByte b) := packed _ _ _
theorem crcBuf (d : List Byte) : Statement (.crcBuf d) := packed _ _ _
theorem crcRead : Statement .crcRead := packed _ _ _
theorem encBuild (t s : Byte) (d : List Byte) : Statement (.encBuild t s d) := packed _ _ _
theorem encValidate (d : List Byte) : Statement (.encValidate d) := packed _ _ _
theorem prsByte (b : Byte) : Statement (.prsByte b) := packed _ _ _
theorem prsBuf (d : List Byte) : Statement (.prsBuf d) := packed _ _ _
theorem prsReset : Statement .prsReset := packed _ _ _
theorem regRead (n : Byte) : Statement (.regRead n) := packed _ _ _

end Sys2Proof.Laws.EncodingRow
end

