-- ==== Sys2Proof/Tests/Slice0.lean ====
section
/-! SUPPORT. Tests of single commands and steps, with expected values from spec/95_test_vectors.md
or from the encoding tables of spec/30_encoding.md; the ill-formed terms that the checks refuse;
and, for each statement with hypotheses, a state and operands that meet them (the witnesses). -/

namespace Sys2Proof.Machine.Tests

/-- The state after a command or a step, if there is one. -/
def after (o : Host.Outcome State Fault Refusal) : Option State :=
  match o with
  | .next s => some s
  | .fault _ => none
  | .refused _ => none

/-- The result port after a command or a step. -/
def result (o : Host.Outcome State Fault Refusal) : Option Response :=
  (after o).bind (·.resultPort)

/-- The responses of a list of commands, from reset. -/
def responses (is : List Instr) : Option (List Response) := (runInstrs is .reset).map (·.2)

/-- The state after a list of commands, from reset. -/
def reached (is : List Instr) : Option State := (runInstrs is .reset).map (·.1)

/-- The reset state with one command at the port and another behind it. -/
def atPort (w : Word) (d : List Byte) : State :=
  { State.reset with inputs := [.command ⟨w, d⟩, .command ⟨0x05000000, []⟩] }

/-- A parser state with the given buffer, an earlier message's fields still in the registers. -/
def parserAt (p : PState) (buf : List Byte) : State :=
  { State.reset with pstate := p, buf := buf, msgType := 7, msgSeq := 9, msgPayload := [1, 2] }

/-- "123456789". -/
def digits9 : List Byte := [0x31, 0x32, 0x33, 0x34, 0x35, 0x36, 0x37, 0x38, 0x39]

/-- The Ping frame (L1-1). -/
def ping : List Byte := [0xAA, 0x55, 0x00, 0x00, 0x01, 0x01, 0x7C, 0x4F]

/-- The Ping frame with its last byte wrong (V-PRS-4). -/
def pingBad : List Byte := [0xAA, 0x55, 0x00, 0x00, 0x01, 0x01, 0x7C, 0x4E]

/-- The frame of V-ENC-2. -/
def ping2 : List Byte := [0xAA, 0x55, 0x00, 0x00, 0x01, 0x02, 0x4C, 0x2C]

/-- The reflected parameter set of R58's second example. -/
def modbus : Config := { crcPoly := 0x8005, crcReflect := true, errCountWidth := 32 }

/-! ## WellFormed -/

theorem test_wf_refuses_register_6 : (Instr.regRead 6).wf = false := by decide

theorem test_wf_accepts_register_5 : (Instr.regRead 5).wf = true := by decide

/-! ## Decode: every row's word written from R48, R49 and R51, bits 31 to 0 -/

theorem test_decode_crc_init :
    decode ⟨0b00000001_00000000_0000000000000000, []⟩ = .ok .crcInit := by decide

theorem test_decode_crc_load :
    decode ⟨0b00000010_00000000_0010100110110001, []⟩ = .ok (.crcLoad 0x29B1) := by decide

theorem test_decode_crc_byte :
    decode ⟨0b00000011_00000000_00000000_01000001, []⟩ = .ok (.crcByte 0x41) := by decide

theorem test_decode_crc_buf :
    decode ⟨0b00000100_00000000_0000000000000000, [0x31]⟩ = .ok (.crcBuf [0x31]) := by decide

theorem test_decode_crc_read :
    decode ⟨0b00000101_00000000_0000000000000000, []⟩ = .ok .crcRead := by decide

theorem test_decode_enc_build :
    decode ⟨0b00010000_00000011_00000000_01111111, [1, 2, 3]⟩ =
      .ok (.encBuild 0x03 0x7F [1, 2, 3]) := by decide

theorem test_decode_enc_validate :
    decode ⟨0b00010001_00000000_0000000000000000, [0xAA]⟩ = .ok (.encValidate [0xAA]) := by decide

theorem test_decode_prs_byte :
    decode ⟨0b00100000_00000000_00000000_10101010, []⟩ = .ok (.prsByte 0xAA) := by decide

theorem test_decode_prs_buf :
    decode ⟨0b00100001_00000000_0000000000000000, []⟩ = .ok (.prsBuf []) := by decide

theorem test_decode_prs_reset :
    decode ⟨0b00100010_00000000_0000000000000000, []⟩ = .ok .prsReset := by decide

theorem test_decode_reg_read :
    decode ⟨0b00110000_00000101_0000000000000000, []⟩ = .ok (.regRead 5) := by decide

/-- V-CTL-4 and V-CTL-5. -/
theorem test_decode_reserved :
    decode ⟨0x00000000, []⟩ = .error .reservedOpcode ∧
    decode ⟨0xFF000000, []⟩ = .error .reservedOpcode ∧
    decode ⟨0x06000000, []⟩ = .error .reservedOpcode := by decide

/-- V-CRC-14, V-CRC-15, V-ENC-10, V-PRS-14, V-CTL-3. -/
theorem test_decode_nonzero_field :
    decode ⟨0x01010000, []⟩ = .error .nonzeroField ∧
    decode ⟨0x03000100, []⟩ = .error .nonzeroField ∧
    decode ⟨0x10010101, []⟩ = .error .nonzeroField ∧
    decode ⟨0x21000001, []⟩ = .error .nonzeroField ∧
    decode ⟨0x30000001, []⟩ = .error .nonzeroField := by decide

/-- V-PRS-15. -/
theorem test_decode_unexpected_data :
    decode ⟨0x20000000, [0x00]⟩ = .error .unexpectedData := by decide

theorem test_decodeTableWord :
    decodeTableWord 32 0x200000AA = some (.prsByte 0xAA) ∧
    decodeTableWord 32 0x06000000 = none := by decide

/-! ## CRC Engine -/

/-- V-CRC-1 to V-CRC-4, V-CRC-7. -/
theorem test_crc16_values :
    crc16 .default [] = 0xFFFF ∧ crc16 .default [0x00] = 0xE1F0 ∧
    crc16 .default [0xFF] = 0xFF00 ∧ crc16 .default [0x41] = 0xB915 ∧
    crc16 .default [0x00, 0x00] = 0x1D0F ∧ crc16 .default [0xFF, 0xFF] = 0x0000 := by decide

/-- V-CRC-5, V-CRC-9. -/
theorem test_crc16_check_value :
    crc16 .default digits9 = 0x29B1 ∧ crc16Fast .default digits9 = 0x29B1 := by decide +kernel

/-- V-CRC-5, V-CRC-9, V-CRC-17 for the reflected parameters. -/
theorem test_crc16_reflected :
    crc16 modbus digits9 = 0x4B37 ∧ crc16 modbus [0x00] = 0x40BF ∧
    crc16Fast modbus digits9 = 0x4B37 ∧
    (crcTable modbus).take 8 =
      [0x0000, 0xC0C1, 0xC181, 0x0140, 0xC301, 0x03C0, 0x0280, 0xC241] := by decide +kernel

/-- The table printed in R60. -/
theorem test_crc_table : crcTable .default = printedCrcTable := by decide +kernel

/-- R64's example. -/
theorem test_crc_init :
    (after (exec .crcInit { State.reset with crcReg := 0x1234 })).map (·.crcReg) =
      some 0xFFFF := by decide

/-- R65's example. -/
theorem test_crc_load :
    (after (exec (.crcLoad 0x29B1) .reset)).map (·.crcReg) = some 0x29B1 := by decide

/-- V-CRC-11. -/
theorem test_crc_byte_zero :
    responses [.crcLoad 0x0000, .crcByte 0x00, .crcRead] =
      some [{ status := .ok }, { status := .ok }, { status := .ok, crcValue := 0 }] := by decide

/-- R66's example. -/
theorem test_crc_byte :
    (after (exec (.crcByte 0x41) .reset)).map (·.crcReg) = some 0xB915 := by decide

/-- A non-zero running value that a zero byte leaves alone: `0x1F00 ^ T[0xF0]` with the printed
`T[0xF0] = 0xEF1F` of R60 (log entry 11). -/
theorem test_crc_byte_fixed_point : crcStep .default 0xF01F 0x00 = 0xF01F := by decide

/-- V-CRC-13. -/
theorem test_crc_buf :
    (after (exec (.crcBuf digits9) { State.reset with crcReg := 0 })).map (·.crcReg) =
      some 0x31C3 := by decide +kernel

/-- V-CRC-16. -/
theorem test_crc_read :
    result (exec .crcRead .reset) = some { status := .ok, crcValue := 0xFFFF } := by decide

/-! ## Frame Codec -/

/-- V-ENC-4. -/
theorem test_enc_build :
    result (exec (.encBuild 0x03 0x7F [0x01, 0x02, 0x03]) .reset) =
      some { status := .ok
             frame := [0xAA, 0x55, 0x00, 0x03, 0x03, 0x7F, 0x01, 0x02, 0x03, 0xBB, 0xE6] } := by
  decide +kernel

/-- V-ENC-5, and L1-1 under the reflected parameters. -/
theorem test_enc_build_header_bytes :
    result (exec (.encBuild 0xAA 0x55 [0xAA, 0x55]) .reset) =
      some { status := .ok
             frame := [0xAA, 0x55, 0x00, 0x02, 0xAA, 0x55, 0xAA, 0x55, 0x3E, 0x1E] } ∧
    result (exec (.encBuild 0x01 0x01 []) { State.reset with cfg := modbus }) =
      some { status := .ok, frame := [0xAA, 0x55, 0x00, 0x00, 0x01, 0x01, 0x4D, 0xD4] } := by
  decide +kernel

/-- V-ENC-11 and V-ENC-12. -/
theorem test_enc_validate :
    result (exec (.encValidate ping) .reset) = some { status := .ok, valid := true } ∧
    result (exec (.encValidate pingBad) .reset) = some { status := .ok, valid := false } := by
  decide +kernel

/-- V-ENC-13 and V-ENC-14. -/
theorem test_enc_validate_short :
    result (exec (.encValidate (ping.take 7)) .reset) = some { status := .ok, valid := false } ∧
    result (exec (.encValidate []) .reset) = some { status := .ok, valid := false } := by decide

/-! ## Frame Parser -/

/-- V-PRS-1: the states of the byte-by-byte trace. -/
theorem test_prs_byte_trace :
    (List.range 9).map (fun n => (reached ((ping.take n).map .prsByte)).map
      (fun s => (s.pstate.code, s.buf.length, rxLen s.buf))) =
    [some (0, 0, 0), some (1, 1, 0), some (2, 2, 0), some (2, 3, 0), some (3, 4, 0),
      some (3, 5, 0), some (4, 6, 0), some (4, 7, 0), some (0, 0, 0)] := by decide +kernel

/-- V-PRS-1: the last byte. -/
theorem test_prs_byte_last :
    result (exec (.prsByte 0x4F) (parserAt .readingCrc (ping.take 7))) =
      some { status := .ok, done := true, msg := some ⟨0x01, 0x01, []⟩ } := by decide +kernel

/-- V-PRS-4. -/
theorem test_prs_buf_bad_then_good :
    (after (exec (.prsBuf (pingBad ++ ping2)) .reset)).map (fun s => (s.errCount, s.resultPort)) =
      some (1, some { status := .ok, msgs := [⟨0x01, 0x02, []⟩] }) := by decide +kernel

/-- V-PRS-6. -/
theorem test_prs_buf_false_header :
    (after (exec (.prsBuf ([0xAA, 0x55, 0x00, 0x05] ++ ping ++ ping2)) .reset)).map
      (fun s => (s.errCount, s.pstate, s.resultPort)) =
      some (1, .idle, some { status := .ok }) := by decide +kernel

/-- V-PRS-3 and V-PRS-7. -/
theorem test_prs_buf_garbage :
    result (exec (.prsBuf ([0x00, 0xAA, 0x12, 0xAA, 0xAA] ++ ping)) .reset) =
      some { status := .ok, msgs := [⟨0x01, 0x01, []⟩] } ∧
    result (exec (.prsBuf [0xAA, 0x55, 0x00, 0x02, 0xAA, 0x55, 0xAA, 0x55, 0x3E, 0x1E]) .reset) =
      some { status := .ok, msgs := [⟨0xAA, 0x55, [0xAA, 0x55]⟩] } := by decide +kernel

/-- V-PRS-16. -/
theorem test_err_count_wraps :
    (after (exec (.prsBuf pingBad) { State.reset with errCount := 0xFFFFFFFF })).map
      (·.errCount) = some 0 := by decide +kernel

/-- R84's example. -/
theorem test_prs_reset :
    (after (exec .prsReset (parserAt .readingPayload [0xAA, 0x55, 0, 0, 1]))).map
      (fun s => (s.pstate, s.buf, s.errCount)) = some (.idle, [], 0) := by decide

/-! ## REG_READ -/

/-- V-PRS-1b and Program 2, steps 8 and 9. -/
theorem test_reg_read_message :
    responses [.prsBuf [0xAA, 0x55, 0x00, 0x03, 0x03, 0x7F, 0x01, 0x02, 0x03, 0xBB, 0xE6],
        .regRead 1, .regRead 5] =
      some [{ status := .ok, msgs := [⟨0x03, 0x7F, [0x01, 0x02, 0x03]⟩] },
        { status := .ok, regValue := 0x00000008 },
        { status := .ok, regValue := 0x00037F03 }] := by decide +kernel

/-- V-CTL-1 and V-CTL-2. -/
theorem test_reg_read_reset :
    responses [.regRead 0, .regRead 1, .regRead 2, .regRead 3, .regRead 4, .regRead 5,
        .regRead 6] =
      some [{ status := .ok, regValue := 0x0000FFFF }, { status := .ok }, { status := .ok },
        { status := .ok }, { status := .ok }, { status := .ok },
        { status := .illegalCommand }] := by decide

/-! ## The step -/

/-- V-CRC-14 at the port: nothing is written but the result port. -/
theorem test_step_illegal :
    after (step (atPort 0x01010000 [])) =
      some { State.reset with
             inputs := [.command ⟨0x05000000, []⟩]
             resultPort := some { status := .illegalCommand } } := by decide

/-- Power lost in the middle of a frame (R103). -/
theorem test_step_power_on :
    after (step { parserAt .readingHeader [0xAA] with
        inputs := [.powerOnReset], errCount := 3, crcReg := 1 }) = some State.reset := by decide

theorem test_withFetchWord :
    (after (step (State.reset.withFetchWord 32 0x200000AA))).map (·.buf) = some [0xAA] := by
  decide

/-! ## Assembler (R54 to R56) -/

/-- `crc.byte 0x41 ; a comment`, and the two ways of writing bytes. -/
theorem test_assemble_lines :
    assembleLine "crc.byte 0x41 ; a comment".toList = some [⟨0x03000041, []⟩] ∧
    assembleLine ("enc.build 3, 0x7F, ".toList ++ [openBrace] ++ "01 02 03".toList ++
      [closeBrace]) = some [⟨0x1003007F, [1, 2, 3]⟩] ∧
    assembleLine ("crc.buf ".toList ++ [openBrace] ++ "\"12,;\"".toList ++ [closeBrace]) =
      some [⟨0x04000000, [0x31, 0x32, 0x2C, 0x3B]⟩] := by decide

/-- Operands that do not fit, and a register name. -/
theorem test_assemble_errors :
    assembleLine "prs.byte 256".toList = none ∧ assembleLine "crc.load 0x10000".toList = none ∧
    assembleLine "reg.read errcnt".toList = some [⟨0x30040000, []⟩] ∧
    assembleLine "  ".toList = some [] := by decide

/-- Two lines, one of them a pseudo-instruction. -/
theorem test_assemble_source :
    assembleSource ("prs.reset\nenc.ping 0x09".toList) =
      some [⟨0x22000000, []⟩, ⟨0x10010009, []⟩] := by decide

/-! ## Witnesses: a legal and an illegal command for each port rule -/

theorem witness_port_crcInit :
    (atPort 0x01000000 []).inputs = .command ⟨0x01000000, []⟩ :: [.command ⟨0x05000000, []⟩] ∧
    (0x01000000 : Word).extractLsb' 24 8 = 0x01 ∧ (0x01FF0000 : Word).extractLsb' 24 8 = 0x01 ∧
    (0x01FF0000 : Word) ≠ 0x01000000 := by decide

theorem witness_port_crcLoad :
    (0x0200FFFF : Word).extractLsb' 24 8 = 0x02 ∧ (0x0200FFFF : Word).extractLsb' 16 8 = 0 ∧
    (0x02010000 : Word).extractLsb' 24 8 = 0x02 ∧ (0x02010000 : Word).extractLsb' 16 8 ≠ 0 := by
  decide

theorem witness_port_crcByte :
    (0x030000FF : Word).extractLsb' 24 8 = 0x03 ∧ (0x030000FF : Word).extractLsb' 8 16 = 0 ∧
    (0x03000100 : Word).extractLsb' 24 8 = 0x03 ∧ (0x03000100 : Word).extractLsb' 8 16 ≠ 0 := by
  decide

theorem witness_port_crcBuf :
    (0x04000000 : Word).extractLsb' 24 8 = 0x04 ∧ (0x04000001 : Word).extractLsb' 24 8 = 0x04 ∧
    (0x04000001 : Word) ≠ 0x04000000 := by decide

theorem witness_port_crcRead :
    (0x05000000 : Word).extractLsb' 24 8 = 0x05 ∧ (0x05000001 : Word).extractLsb' 24 8 = 0x05 ∧
    (0x05000001 : Word) ≠ 0x05000000 := by decide

theorem witness_port_encBuild :
    (0x10FF00FF : Word).extractLsb' 24 8 = 0x10 ∧ (0x10FF00FF : Word).extractLsb' 8 8 = 0 ∧
    (0x10010101 : Word).extractLsb' 24 8 = 0x10 ∧ (0x10010101 : Word).extractLsb' 8 8 ≠ 0 := by
  decide

theorem witness_port_encValidate :
    (0x11000000 : Word).extractLsb' 24 8 = 0x11 ∧ (0x11800000 : Word).extractLsb' 24 8 = 0x11 ∧
    (0x11800000 : Word) ≠ 0x11000000 := by decide

theorem witness_port_prsByte :
    (0x200000FF : Word).extractLsb' 24 8 = 0x20 ∧ (0x200000FF : Word).extractLsb' 8 16 = 0 ∧
    (0x20000155 : Word).extractLsb' 24 8 = 0x20 ∧ (0x20000155 : Word).extractLsb' 8 16 ≠ 0 := by
  decide

theorem witness_port_prsBuf :
    (0x21000000 : Word).extractLsb' 24 8 = 0x21 ∧ (0x21000001 : Word).extractLsb' 24 8 = 0x21 ∧
    (0x21000001 : Word) ≠ 0x21000000 := by decide

theorem witness_port_prsReset :
    (0x22000000 : Word).extractLsb' 24 8 = 0x22 ∧ (0x22000001 : Word).extractLsb' 24 8 = 0x22 ∧
    (0x22000001 : Word) ≠ 0x22000000 := by decide

theorem witness_port_regRead :
    (0x30FF0000 : Word).extractLsb' 24 8 = 0x30 ∧ (0x30FF0000 : Word).extractLsb' 0 16 = 0 ∧
    (0x30000001 : Word).extractLsb' 24 8 = 0x30 ∧ (0x30000001 : Word).extractLsb' 0 16 ≠ 0 := by
  decide

/-! ## Witnesses: the hypotheses of the other statements -/

theorem witness_CrcInit_repeats : (after (exec .crcInit .reset)).isSome = true := by decide

theorem witness_CrcRead_repeats : (after (exec .crcRead .reset)).isSome = true := by decide

theorem witness_SingleBitErrorsDetected :
    Config.default.crcPoly.getLsbD 0 = true ∧ 5 < (ping.take 6).length ∧ 7 < 8 := by decide

theorem witness_EncBuildReturnsFrame :
    (List.replicate 65535 (0 : Byte)).length ≤ 65535 ∧
    65535 < (List.replicate 65536 (0 : Byte)).length ∧
    State.reset.cfg = Config.default := by
  exact ⟨List.length_replicate.le, by rw [List.length_replicate]; omega, rfl⟩

theorem witness_BuiltFrameLayout :
    (List.replicate 65535 (0 : Byte)).length ≤ 65535 ∧
    ping = buildFrame .default 0x01 0x01 [] ∧ ([7, 8] : List Byte).length ≤ 65535 ∧
    1 < ([7, 8] : List Byte).length := by
  refine ⟨List.length_replicate.le, by decide +kernel, by decide +kernel, by decide +kernel⟩

theorem witness_EncValidateChecksTheCrc :
    6 ≤ (ping.take 6).length ∧ State.reset.cfg = Config.default := by decide

theorem witness_BuildThenParseRoundTrip :
    (List.replicate 65535 (0xAA : Byte)).length ≤ 65535 := List.length_replicate.le

theorem witness_IdleScansForHeader : BlockInv State.reset ∧ State.reset.pstate = .idle := by decide

theorem witness_ReadingHeaderHandlesFalseStarts :
    BlockInv (parserAt .readingHeader [0xAA]) ∧
    (parserAt .readingHeader [0xAA]).pstate = .readingHeader := by decide

theorem witness_ReadingLengthTakesTwoBytes :
    BlockInv (parserAt .readingLength [0xAA, 0x55]) ∧
    BlockInv (parserAt .readingLength [0xAA, 0x55, 0xFF]) ∧
    (parserAt .readingLength [0xAA, 0x55, 0xFF]).pstate = .readingLength ∧
    (parserAt .readingLength [0xAA, 0x55, 0xFF]).buf.length = 3 := by decide

theorem witness_ReadingPayloadTakesEveryByte :
    BlockInv (parserAt .readingPayload [0xAA, 0x55, 0, 0]) ∧
    BlockInv (parserAt .readingPayload [0xAA, 0x55, 0, 0, 1]) ∧
    (parserAt .readingPayload [0xAA, 0x55, 0, 0, 1]).pstate = .readingPayload := by decide

/-- The byte before the last, a good last byte and a bad one. -/
theorem witness_ReadingCrcEndsTheFrame :
    BlockInv (parserAt .readingCrc (ping.take 6)) ∧
    (ping.take 6 ++ [0x7C]).length < 8 + rxLen (ping.take 6) ∧
    BlockInv (parserAt .readingCrc (ping.take 7)) ∧
    (parserAt .readingCrc (ping.take 7)).pstate = .readingCrc ∧
    ping = ping.take 7 ++ [0x4F] ∧ ping.length = 8 + rxLen (ping.take 7) ∧
    crc16 (parserAt .readingCrc (ping.take 7)).cfg (ping.take (6 + rxLen (ping.take 7))) =
      be16 (ping.getD (6 + rxLen (ping.take 7)) 0) (ping.getD (7 + rxLen (ping.take 7)) 0) ∧
    pingBad = ping.take 7 ++ [0x4E] ∧ pingBad.length = 8 + rxLen (ping.take 7) ∧
    crc16 (parserAt .readingCrc (ping.take 7)).cfg (pingBad.take (6 + rxLen (ping.take 7))) ≠
      be16 (pingBad.getD (6 + rxLen (ping.take 7)) 0)
        (pingBad.getD (7 + rxLen (ping.take 7)) 0) := by decide +kernel

theorem witness_TransitionTable :
    BlockInv (parserAt .readingCrc (ping.take 7)) ∧
    (7 + 1 = (parserAt .readingCrc (ping.take 7)).buf.length + 1) ∧
    0 = rxLen ((parserAt .readingCrc (ping.take 7)).buf ++ [0x4F]) ∧
    (True ↔ crc16 (parserAt .readingCrc (ping.take 7)).cfg
        (((parserAt .readingCrc (ping.take 7)).buf ++ [0x4F]).take (6 + 0)) =
      be16 (((parserAt .readingCrc (ping.take 7)).buf ++ [0x4F]).getD (6 + 0) 0) 0x4F) := by
  decide +kernel

theorem witness_FrameBytesAreNotRescanned :
    BlockInv State.reset ∧ State.reset.pstate = .idle ∧
    ([1, 1, 0x7C, 0x4F] : List Byte).length = (0 : Byte).toNat * 256 + (0 : Byte).toNat + 4 ∧
    ([1, 1, 0x7C, 0x4F] : List Byte) = [1, 1, 0x7C] ++ [0x4F] ∧ ([0x4F] : List Byte) ≠ [] := by
  decide

theorem witness_PrsBufFeedsTheBuffer :
    State.reset.cfg = Config.default ∧ BlockInv State.reset ∧ State.reset.pstate = .idle ∧
    (after (exec (.prsBuf ping) .reset)).map (·.msgValid) = some true := by decide +kernel

theorem witness_FeedEquivalence : ([0xAA] : List Byte) ≠ [] := by decide

theorem witness_SyncRecovery :
    BlockInv State.reset ∧ State.reset.pstate = .idle ∧
    ¬ [0xAA#8, 0x55#8] <:+: [0x00, 0xAA, 0x12, 0x55, 0xAA] ∧ ([] : List Byte).length ≤ 65535 ∧
    (after (exec (.prsBuf [0x00, 0xAA]) .reset)).map (·.pstate) = some .readingHeader ∧
    (after (exec (.prsBuf ping) .reset)).map (·.pstate) = some .idle := by decide +kernel

theorem witness_RecoveryAfterCorruptedCrc :
    BlockInv State.reset ∧ State.reset.pstate = .idle ∧ ([] : List Byte).length ≤ 65535 ∧
    frameBody 1 1 [] ++ [0x7C, 0x4E] ≠ buildFrame State.reset.cfg 1 1 [] := by decide +kernel

theorem witness_TruncatedFrameWaits :
    BlockInv State.reset ∧ State.reset.pstate = .idle ∧ ([] : List Byte).length ≤ 65535 ∧
    buildFrame State.reset.cfg 1 1 [] = ping.take 5 ++ ping.drop 5 ∧ ping.drop 5 ≠ [] ∧
    (∀ j ∈ [Instr.crcInit, .regRead 2], isParserCommand j = false) := by decide +kernel

theorem witness_RegReadReturnsTheRegister : 6 ≤ (6 : Byte).toNat := by decide

/-- The invariant and legal parameters, with and without a message. -/
theorem witness_StatusRegisterMap :
    BlockInv State.reset ∧ State.reset.cfg.WellFormed ∧ State.reset.msgValid = false ∧
    BlockInv { State.reset with msgValid := true } ∧ 6 ≤ (0xFF : Byte).toNat ∧
    Config.WellFormed { crcPoly := 1, crcReflect := true, errCountWidth := 1 } := by decide

theorem witness_PowerOnResetValues :
    ({ State.reset with inputs := [.powerOnReset] } : State).inputs = .powerOnReset :: [] := by
  decide

theorem witness_StepKeepsInvariant :
    BlockInv (atPort 0x200000AA []) ∧ (after (step (atPort 0x200000AA []))).isSome = true := by decide

theorem witness_BufferNeverOverflows : BlockInv (parserAt .readingCrc (ping.take 7)) := by decide

theorem witness_ErrorsWriteNoState :
    (result (exec (.regRead 6) .reset)).map (·.status) = some .illegalCommand ∧
    (atPort 0x00000000 []).inputs = .command ⟨0, []⟩ :: [.command ⟨0x05000000, []⟩] ∧
    decode ⟨0, []⟩ = .error .reservedOpcode := by decide

theorem witness_StatusOfEveryCommand :
    (atPort 0x10010101 []).inputs = .command ⟨0x10010101, []⟩ :: [.command ⟨0x05000000, []⟩] ∧
    decode ⟨0x10010101, []⟩ = .error .nonzeroField ∧
    (0x10010101 : Word).extractLsb' 24 8 = 0x10 ∧ (0x10010101 : Word).extractLsb' 8 8 ≠ 0 ∧
    CompletesBadFrame (parserAt .readingCrc (ping.take 7)) 0x4E := by decide +kernel

/-- A reset, an empty port and a mismatching buffer at the port. -/
theorem witness_ErrCountCountsMismatches :
    BlockInv (atPort 0x21000000 (pingBad ++ pingBad)) ∧
    (after (step (atPort 0x21000000 (pingBad ++ pingBad)))).map (·.errCount) = some 2 ∧
    mismatches (atPort 0x21000000 (pingBad ++ pingBad)) (pingBad ++ pingBad) = 2 ∧
    (after (step { State.reset with inputs := [.powerOnReset] })).isSome = true := by decide +kernel

theorem witness_MismatchDoesNotStopTheBuffer :
    CompletesBadFrame (parserAt .readingCrc (ping.take 7)) 0x4E := by decide +kernel

theorem witness_CodecAndParserIgnoreCrcReg : isParserCommand .prsReset = true := by decide

theorem witness_StaleMessageIsUnobservable :
    Agrees (parserAt .idle []) State.reset ∧ parserAt .idle [] ≠ State.reset := by decide

theorem witness_MessageIsTransient :
    isParserCommand (.prsByte 0) = true ∧
    (result (exec (.prsByte 0) .reset)).map (fun r => (r.msg, r.msgs)) = some (none, []) := by
  decide

theorem witness_BigEndianHalves : 15 < 16 ∧ (rev16 0x8000).getLsbD (15 - 15) = true := by decide

theorem witness_EncodeDecodeRoundTrip : decode ⟨0x30050000, []⟩ = .ok (.regRead 5) := by decide

theorem witness_LegalCommandsAreTheTableRows :
    (opcodeRows.getD 10 ⟨0, 0, false⟩).matches ⟨0x30050000, []⟩ ∧
    ¬ ∃ r ∈ opcodeRows, r.matches ⟨0x30050000, [0]⟩ := by decide

theorem witness_StepRunsTheDecodedCommand :
    (atPort 0x30050000 []).inputs =
      .command (encode (.regRead 5)) :: [.command ⟨0x05000000, []⟩] ∧
    decode ⟨0x30050000, []⟩ = .ok (.regRead 5) := by decide

theorem witness_EmptyPortKeepsState : State.reset.inputs = [] := by decide

theorem witness_CommandsRunInOrder :
    (atPort 0x30050000 []).inputs =
      [Instr.regRead 5, .crcRead].map (fun i => .command (encode i)) ++ [] := by decide

/-- The largest operand of each width fits, the next does not. -/
theorem witness_AssemblerEncodings :
    assemble (.crcLoad 0xFFFF) = some [⟨0x0200FFFF, []⟩] ∧ assemble (.crcLoad 0x10000) = none ∧
    assemble (.encBuild 0xFF 0xFF []) = some [⟨0x10FF00FF, []⟩] ∧
    assemble (.encBuild 0xFF 0x100 []) = none ∧ assemble (.regRead 0x100) = none := by decide

theorem witness_PseudoInstructionsRun :
    ({ State.reset with crcReg := 0 } : State).cfg = State.reset.cfg := by decide

end Sys2Proof.Machine.Tests
end

section
/-! The operand helpers of R13: taking a u16 apart and assembling it. -/

namespace Sys2Proof.Machine

@[simp] theorem be16_hi8_lo8 (v : Half) : be16 (hi8 v) (lo8 v) = v := by
  unfold be16 hi8 lo8
  rw [BitVec.extractLsb'_append_extractLsb'_eq_extractLsb' (by decide)]
  exact BitVec.extractLsb'_eq_self

@[simp] theorem hi8_be16 (hi lo : Byte) : hi8 (be16 hi lo) = hi :=
  BitVec.extractLsb'_append_eq_left

@[simp] theorem lo8_be16 (hi lo : Byte) : lo8 (be16 hi lo) = lo :=
  BitVec.extractLsb'_append_eq_right

/-- Settles O44: the value of `be16`, the two inverse laws of its halves, and the bits of `rev16`
read from the other end. -/
theorem bigEndianHalves : Obligations.BigEndianHalves := by
  refine ⟨be16_toNat, be16_hi8_lo8, fun hi lo => ⟨hi8_be16 hi lo, lo8_be16 hi lo⟩, ?_⟩
  intro v k hk
  have hmirror : 15 - (15 - k) = k := by omega
  rw [rev16_getLsbD v (15 - k) (by omega), hmirror]

end Sys2Proof.Machine
end

section
/-! One step and one command, each as an equation between states: what the next event does, and
that a command other than PRS_BYTE, PRS_BUF and PRS_RESET writes `crc_reg` and the result port
alone. -/

namespace Sys2Proof.Machine

variable {s t : State} {i : Instr} {c : Command} {rest : List PortEvent}

/-! ## One step, by the event at the port -/

theorem step_empty (h : s.inputs = []) : step s = .next s := by
  simp only [step, h, idleStep]

theorem step_powerOnReset (h : s.inputs = .powerOnReset :: rest) :
    step s = .next (State.powerOn s.cfg rest) := by
  simp only [step, h, powerCycle, State.setInputs_cfg, State.setInputs_inputs]

theorem step_legal (h : s.inputs = .command c :: rest) (hd : decode c = .ok i) :
    step s = exec i (s.setInputs rest) := by
  simp only [step, h, hd]

theorem step_illegal {e : DecodeError} (h : s.inputs = .command c :: rest)
    (hd : decode c = .error e) :
    step s = .next ((s.setInputs rest).respond (Response.error .illegalCommand)) := by
  simp only [step, h, hd, raise]

/-! ## One command -/

theorem exec_prsReset (s : State) :
    exec .prsReset s =
      .next (((s.writePState .idle).bufClear.clearMsgValid).respond Response.plainOk) := rfl

theorem agrees_refl (s : State) : Agrees s s :=
  ⟨rfl, rfl, rfl, rfl, rfl, rfl, rfl, rfl, fun _ => ⟨rfl, rfl, rfl⟩⟩

/-- No status register shows a message register while `msg_valid = 0` (R26, R31). -/
theorem statusRegister_agrees (h : Agrees s t) (n : Byte) :
    statusRegister n s = statusRegister n t := by
  obtain ⟨-, hcrc, hp, hbuf, herr, hv, -, -, hmsg⟩ := h
  have hinfo : msgInfo s = msgInfo t := by
    unfold msgInfo
    rw [← hv]
    split
    · next hvalid =>
      obtain ⟨htype, hseq, hpayload⟩ := hmsg hvalid
      rw [htype, hseq, hpayload]
    · rfl
  simp only [statusRegister, parserStatus, hinfo, hcrc, hp, hbuf, herr, hv]

/-- A command that is not a parser command answers alike from two states that agree, and writes
nothing but `crc_reg` and the result port (R20, R28, R32). -/
theorem exec_nonParser_agrees (hi : isParserCommand i = false) (h : Agrees s t) :
    ∃ v r, exec i s = .next ((s.writeCrc v).respond r) ∧
      exec i t = .next ((t.writeCrc v).respond r) ∧ (writesCrc i = false → v = s.crcReg) := by
  obtain ⟨hcfg, hcrc, -⟩ := id h
  have hs : s.writeCrc s.crcReg = s := rfl
  have ht : t.writeCrc s.crcReg = t := by rw [hcrc]; rfl
  cases i with
  | crcInit => exact ⟨_, _, rfl, rfl, nofun⟩
  | crcLoad imm => exact ⟨_, _, rfl, rfl, nofun⟩
  | crcByte b => exact ⟨_, _, rfl, by rw [hcfg, hcrc]; rfl, nofun⟩
  | crcBuf d => exact ⟨_, _, rfl, by rw [hcfg, hcrc]; rfl, nofun⟩
  | crcRead => exact ⟨s.crcReg, _, rfl, by rw [ht, hcrc]; rfl, fun _ => rfl⟩
  | encBuild y q d =>
    refine ⟨s.crcReg, ?_⟩
    rw [hs, ht]
    by_cases hd : maxPayload < d.length
    · exact ⟨_, exec_encBuild_long y q s hd, exec_encBuild_long y q t hd, fun _ => rfl⟩
    · exact ⟨_, exec_encBuild_fits y q s hd, hcfg ▸ exec_encBuild_fits y q t hd,
        fun _ => rfl⟩
  | encValidate d => exact ⟨s.crcReg, _, rfl, by rw [ht, hcfg]; rfl, fun _ => rfl⟩
  | regRead n =>
    refine ⟨s.crcReg, ?_⟩
    rw [hs, ht]
    have hreg := statusRegister_agrees h n
    cases hn : statusRegister n s with
    | none => exact ⟨_, exec_regRead_none hn, exec_regRead_none (hreg ▸ hn), fun _ => rfl⟩
    | some v => exact ⟨_, exec_regRead_some hn, exec_regRead_some (hreg ▸ hn), fun _ => rfl⟩
  | prsByte b => cases hi
  | prsBuf d => cases hi
  | prsReset => cases hi

/-- A command that is not a parser command writes nothing but `crc_reg` and the result port. -/
theorem exec_nonParser (hi : isParserCommand i = false) (s : State) :
    ∃ v r, exec i s = .next ((s.writeCrc v).respond r) ∧
      (writesCrc i = false → v = s.crcReg) := by
  obtain ⟨v, r, hs, -, hv⟩ := exec_nonParser_agrees hi (agrees_refl s)
  exact ⟨v, r, hs, hv⟩

end Sys2Proof.Machine
end

section
/-! Feeding the parser: the three outcomes of a byte, and from them the bounds on `err_count`, the
message payload (R17) and the buffer (R22). -/

namespace Sys2Proof.Machine

variable {s t : State} {b : Byte}

/-- What one byte can do: complete no frame, complete a good one (R80), or complete a bad one
(R81). -/
theorem feedByte_outcome (s : State) (b : Byte) :
    (¬ CompletesBadFrame s b ∧ ∃ p l, l.length ≤ s.buf.length + 1 ∧
      feedByte s b = ({ s with msgValid := false, buf := l, pstate := p }, none)) ∨
    (¬ CompletesBadFrame s b ∧ ∃ m : Message, m = messageOf (s.buf ++ [b]) ∧
      feedByte s b =
        (({ s with buf := [], pstate := .idle } : State).deliver m, some m)) ∨
    (CompletesBadFrame s b ∧
      feedByte s b =
        ({ s with
            msgValid := false, buf := [], pstate := .idle
            errCount := (s.errCount + 1) % 2 ^ s.cfg.errCountWidth }, none)) := by
  cases h : s.pstate with
  | idle =>
    refine .inl ⟨by simp [CompletesBadFrame, h], ?_⟩
    rw [feedByte_idle h]
    split
    · exact ⟨_, _, by simp, rfl⟩
    · exact ⟨_, s.buf, by simp, rfl⟩
  | readingHeader =>
    refine .inl ⟨by simp [CompletesBadFrame, h], ?_⟩
    rw [feedByte_header h]
    split_ifs
    · exact ⟨_, _, by simp, rfl⟩
    · exact ⟨_, s.buf, by simp, rfl⟩
    · exact ⟨_, [], by simp, rfl⟩
  | readingLength =>
    exact .inl ⟨by simp [CompletesBadFrame, h], _, s.buf ++ [b], by simp, feedByte_length h⟩
  | readingPayload =>
    exact .inl ⟨by simp [CompletesBadFrame, h], _, s.buf ++ [b], by simp, feedByte_payload h⟩
  | readingCrc =>
    by_cases hn : s.buf.length + 1 = 8 + rxLen (s.buf ++ [b])
    · by_cases hc : crc16 s.cfg (crcCovered (s.buf ++ [b])) = receivedCrc (s.buf ++ [b])
      · exact .inr (.inl ⟨fun hbad => hbad.2.2 hc, _, rfl, feedByte_crc_good h hn hc⟩)
      · exact .inr (.inr ⟨⟨h, hn, hc⟩, feedByte_crc_bad h hn hc⟩)
    · exact .inl ⟨fun hbad => hn hbad.2.1, _, s.buf ++ [b], by simp, feedByte_crc_more h hn⟩

theorem messageOf_payload_length_le (f : List Byte) :
    (messageOf f).payload.length ≤ maxPayload := by
  have hlen := rxLen_le f
  simp only [messageOf, crcCovered, maxPayload, List.length_drop, List.length_take]
  omega

theorem feedByte_keeps_widthInv (hs : WidthInv s) : WidthInv (feedByte s b).1 := by
  obtain ⟨herr, hpay⟩ := hs
  obtain ⟨-, p, l, -, he⟩ | ⟨-, m, hm, he⟩ | ⟨-, he⟩ := feedByte_outcome s b
  · rw [he]; exact ⟨herr, hpay⟩
  · rw [he]; exact ⟨herr, hm ▸ messageOf_payload_length_le _⟩
  · rw [he]; exact ⟨Nat.mod_lt _ (Nat.two_pow_pos _), hpay⟩

theorem feedByte_keeps_blockInv (hs : BlockInv s) : BlockInv (feedByte s b).1 :=
  ⟨feedByte_keeps_parserInv hs.1, feedByte_keeps_widthInv hs.2⟩

theorem feed_keeps_blockInv (hs : BlockInv s) (d : List Byte) : BlockInv (feed s d).1 := by
  induction d generalizing s with
  | nil => exact hs
  | cons b d ih => exact ih (feedByte_keeps_blockInv hs)

theorem parserInv_of_frameOver (h : FrameOver s) : ParserInv s := by
  obtain ⟨hp, hbuf⟩ := h
  simp [ParserInv, hp, hbuf]

theorem powerOn_blockInv (cfg : Config) (es : List PortEvent) : BlockInv (State.powerOn cfg es) :=
  ⟨parserInv_of_frameOver ⟨rfl, rfl⟩, Nat.two_pow_pos _, Nat.zero_le _⟩

/-- R22: the largest frame has 65543 bytes, and its last byte empties the buffer. -/
theorem buf_length_lt (hs : ParserInv s) : s.buf.length < 65543 := by
  obtain ⟨h1, h2, h3, h4, h5⟩ := hs
  have hlen := rxLen_le s.buf
  cases h : s.pstate with
  | idle => have := h1.mp h; omega
  | readingHeader => simp [h2.mp h]
  | readingLength => have := h3.mp h; omega
  | readingPayload => have := h4.mp h; omega
  | readingCrc => have := h5.mp h; omega

theorem feedByte_buf_length_le (s : State) (b : Byte) :
    (feedByte s b).1.buf.length ≤ s.buf.length + 1 := by
  obtain ⟨-, p, l, hl, he⟩ | ⟨-, m, -, he⟩ | ⟨-, he⟩ := feedByte_outcome s b
  · rw [he]; exact hl
  · rw [he]; exact Nat.zero_le _
  · rw [he]; exact Nat.zero_le _

end Sys2Proof.Machine
end

section
/-! The invariant of R17 and R23 along every step. -/

namespace Sys2Proof.Machine

variable {s t : State}

theorem exec_keeps_blockInv {i : Instr} (hs : BlockInv s) (h : exec i s = .next t) :
    BlockInv t ∧ t.cfg = s.cfg := by
  cases hi : isParserCommand i with
  | false =>
    obtain ⟨v, r, he, -⟩ := exec_nonParser hi s
    cases he.symm.trans h
    exact ⟨hs, rfl⟩
  | true =>
    cases i with
    | prsByte b =>
      cases h
      exact ⟨feedByte_keeps_blockInv hs, (feedByte_frame s b).1⟩
    | prsBuf d =>
      cases h
      exact ⟨feed_keeps_blockInv (s := s.clearMsgValid) hs d, (feed_frame s.clearMsgValid d).1⟩
    | prsReset =>
      cases h
      exact ⟨⟨parserInv_of_frameOver ⟨rfl, rfl⟩, hs.2⟩, rfl⟩
    | _ => cases hi

/-- Settles O33: by the event at the port, from `exec_keeps_blockInv` and `powerOn_blockInv`. -/
theorem stepKeepsInvariant : Obligations.StepKeepsInvariant := by
  intro s t hs hstep
  match hin : s.inputs with
  | [] =>
    cases (step_empty hin).symm.trans hstep
    exact ⟨hs, rfl⟩
  | .powerOnReset :: rest =>
    cases (step_powerOnReset hin).symm.trans hstep
    exact ⟨powerOn_blockInv _ _, rfl⟩
  | .command c :: rest =>
    cases hd : decode c with
    | ok i => exact exec_keeps_blockInv (s := s.setInputs rest) hs (step_legal hin hd ▸ hstep)
    | error e =>
      cases (step_illegal hin hd).symm.trans hstep
      exact ⟨hs, rfl⟩

/-- Settles O32: the machine's reset state is a power-on state. -/
theorem resetEstablishesInvariant : Obligations.ResetEstablishesInvariant :=
  ⟨powerOn_blockInv _ _, powerOn_blockInv⟩

/-- Settles O34: `buf_length_lt` before and after the byte. -/
theorem bufferNeverOverflows : Obligations.BufferNeverOverflows := by
  intro s b hs
  exact ⟨buf_length_lt hs.1, _, exec_prsByte b s, feedByte_buf_length_le s b,
    buf_length_lt (feedByte_keeps_parserInv hs.1)⟩

/-- Settles O30: a reset at the port leaves a power-on state, whatever was there before. -/
theorem powerOnResetValues : Obligations.PowerOnResetValues := by
  refine ⟨fun s rest hin => ⟨_, step_powerOnReset hin, ?_⟩, by decide⟩
  exact ⟨rfl, rfl, rfl, rfl, rfl, rfl, rfl, rfl, rfl, powerOn_blockInv _ _, rfl⟩

end Sys2Proof.Machine
end

section
/-! The frame of every command, and that the codec and the parser do not look at `crc_reg`. -/

namespace Sys2Proof.Machine

variable {s t : State}

/-- Settles O40: PRS_BYTE and PRS_BUF by the frame of feeding, the rest by what they write. -/
theorem commandsWriteOnlyTheirOwnState : Obligations.CommandsWriteOnlyTheirOwnState := by
  intro i s
  cases hi : isParserCommand i with
  | false =>
    obtain ⟨v, r, he, hv⟩ := exec_nonParser hi s
    exact ⟨_, he, rfl, rfl, hv, fun _ => ⟨rfl, rfl, rfl, rfl, rfl, rfl, rfl⟩, fun _ => rfl⟩
  | true =>
    cases i with
    | prsByte b =>
      obtain ⟨hcfg, hcrc, hin, -⟩ := feedByte_frame s b
      exact ⟨_, exec_prsByte b s, hcfg, hin, fun _ => hcrc, nofun, nofun⟩
    | prsBuf d =>
      obtain ⟨hcfg, hcrc, hin, -⟩ := feed_frame s.clearMsgValid d
      exact ⟨_, exec_prsBuf d s, hcfg, hin, fun _ => hcrc, nofun, nofun⟩
    | prsReset => exact ⟨_, exec_prsReset s, rfl, rfl, fun _ => rfl, nofun, fun _ => rfl⟩
    | _ => cases hi

theorem clearMsgValid_writeCrc (s : State) (v : Half) :
    (s.writeCrc v).clearMsgValid = s.clearMsgValid.writeCrc v := rfl

/-- Settles O41: a byte commutes with a write to `crc_reg`, and the codec reads its operands and
the parameters only. -/
theorem codecAndParserIgnoreCrcReg : Obligations.CodecAndParserIgnoreCrcReg := by
  intro i s v hi
  cases i with
  | prsByte b =>
    refine ⟨_, exec_prsByte b s, (feedByte_frame s b).2.1, ?_⟩
    change exec (.prsByte b) (s.writeCrc v) = _
    rw [exec_prsByte, feedByte_writeCrc]
    rfl
  | prsBuf d =>
    refine ⟨_, exec_prsBuf d s, (feed_frame s.clearMsgValid d).2.1, ?_⟩
    change exec (.prsBuf d) (s.writeCrc v) = _
    rw [exec_prsBuf, clearMsgValid_writeCrc, feed_writeCrc]
    rfl
  | prsReset => exact ⟨_, exec_prsReset s, rfl, rfl⟩
  | encBuild y q d =>
    by_cases hd : maxPayload < d.length
    · exact ⟨_, exec_encBuild_long y q s hd, rfl, exec_encBuild_long y q _ hd⟩
    · exact ⟨_, exec_encBuild_fits y q s hd, rfl, exec_encBuild_fits y q _ hd⟩
  | encValidate d => exact ⟨_, rfl, rfl, rfl⟩
  | _ => simp [isParserCommand] at hi

end Sys2Proof.Machine
end

section
/-! The count of mismatches (R25, R81): what one byte, a byte sequence and a command add to it. -/

namespace Sys2Proof.Machine

variable {s t : State}

theorem mismatches_setInputs (s : State) (es : List PortEvent) (d : List Byte) :
    mismatches (s.setInputs es) d = mismatches s d := by
  induction d generalizing s with
  | nil => rfl
  | cons b d ih =>
    simp only [mismatches]
    rw [feedByte_setInputs, ih]
    rfl

/-- Clearing `msg_valid` first changes no mismatch. -/
theorem mismatches_clearMsgValid (s : State) (d : List Byte) :
    mismatches s.clearMsgValid d = mismatches s d := by
  cases d <;> rfl

theorem feedByte_errCount (b : Byte) (hs : s.errCount < 2 ^ s.cfg.errCountWidth) :
    (feedByte s b).1.errCount =
      (s.errCount + if CompletesBadFrame s b then 1 else 0) % 2 ^ s.cfg.errCountWidth := by
  obtain ⟨hbad, p, l, -, he⟩ | ⟨hbad, m, -, he⟩ | ⟨hbad, he⟩ := feedByte_outcome s b
  · rw [he, if_neg hbad]; exact (Nat.mod_eq_of_lt hs).symm
  · rw [he, if_neg hbad]; exact (Nat.mod_eq_of_lt hs).symm
  · rw [he, if_pos hbad]

theorem feed_errCount (d : List Byte) (hs : WidthInv s) :
    (feed s d).1.errCount = (s.errCount + mismatches s d) % 2 ^ s.cfg.errCountWidth := by
  induction d generalizing s with
  | nil => exact (Nat.mod_eq_of_lt hs.1).symm
  | cons b d ih =>
    simp only [feed, mismatches]
    rw [ih (feedByte_keeps_widthInv hs), feedByte_errCount b hs.1, (feedByte_frame s b).1,
      Nat.mod_add_mod, Nat.add_assoc]

/-- How many mismatches a command counts. -/
def commandMismatches (s : State) : Instr → Nat
  | .prsByte b => mismatches s [b]
  | .prsBuf d => mismatches s d
  | _ => 0

theorem commandMismatches_nonParser {i : Instr} (hi : isParserCommand i = false) (s : State) :
    commandMismatches s i = 0 := by
  cases i with
  | prsByte b => cases hi
  | prsBuf d => cases hi
  | _ => rfl

theorem exec_errCount {i : Instr} (hs : WidthInv s) (h : exec i s = .next t) :
    t.errCount = (s.errCount + commandMismatches s i) % 2 ^ s.cfg.errCountWidth := by
  cases hi : isParserCommand i with
  | false =>
    obtain ⟨v, r, he, -⟩ := exec_nonParser hi s
    cases he.symm.trans h
    rw [commandMismatches_nonParser hi]
    exact (Nat.mod_eq_of_lt hs.1).symm
  | true =>
    cases i with
    | prsByte b => cases h; exact feed_errCount [b] hs
    | prsBuf d =>
      cases h
      rw [commandMismatches, ← mismatches_clearMsgValid]
      exact feed_errCount (s := s.clearMsgValid) d hs
    | prsReset => cases h; exact (Nat.mod_eq_of_lt hs.1).symm
    | _ => cases hi

/-- Settles O38: `feed_errCount` for the two commands that feed bytes. -/
theorem errCountCountsMismatches : Obligations.ErrCountCountsMismatches := by
  intro s t hs hstep
  refine ⟨fun hin => ?_, fun rest hin => ?_, fun c rest hin => ?_⟩
  · cases (step_empty hin).symm.trans hstep; rfl
  · cases (step_powerOnReset hin).symm.trans hstep; rfl
  · cases hd : decode c with
    | ok i =>
      have hcount := exec_errCount (s := s.setInputs rest) hs.2 (step_legal hin hd ▸ hstep)
      cases i with
      | prsByte b => rwa [commandMismatches, mismatches_setInputs] at hcount
      | prsBuf d => rwa [commandMismatches, mismatches_setInputs] at hcount
      | _ => exact hcount
    | error e =>
      cases (step_illegal hin hd).symm.trans hstep
      exact (Nat.mod_eq_of_lt hs.2.1).symm

end Sys2Proof.Machine
end

section
/-! States that differ in stale message registers only (R26) stay in agreement along every step. -/

namespace Sys2Proof.Machine

variable {s t : State}

theorem respond_agrees (h : Agrees s t) (r : Response) : Agrees (s.respond r) (t.respond r) := by
  obtain ⟨hcfg, hcrc, hp, hbuf, herr, hv, hin, -, hmsg⟩ := h
  exact ⟨hcfg, hcrc, hp, hbuf, herr, hv, hin, rfl, hmsg⟩

theorem setInputs_agrees (h : Agrees s t) (es : List PortEvent) :
    Agrees (s.setInputs es) (t.setInputs es) := by
  obtain ⟨hcfg, hcrc, hp, hbuf, herr, hv, -, hport, hmsg⟩ := h
  exact ⟨hcfg, hcrc, hp, hbuf, herr, hv, rfl, hport, hmsg⟩

theorem writeCrc_agrees (h : Agrees s t) (v : Half) : Agrees (s.writeCrc v) (t.writeCrc v) := by
  obtain ⟨hcfg, -, hrest⟩ := h
  exact ⟨hcfg, rfl, hrest⟩

/-- `msg_valid <- 0` takes back every promise about the message registers (R26). -/
theorem clearMsgValid_agrees (h : Agrees s t) : Agrees s.clearMsgValid t.clearMsgValid := by
  obtain ⟨hcfg, hcrc, hp, hbuf, herr, -, hin, hport, -⟩ := h
  exact ⟨hcfg, hcrc, hp, hbuf, herr, rfl, hin, hport, nofun⟩

/-- A byte that completes no good frame leaves two agreeing states in agreement. -/
theorem undelivered_agrees (h : Agrees s t) (p : PState) (l : List Byte) {n m : Nat} (hn : n = m) :
    Agrees { s with msgValid := false, buf := l, pstate := p, errCount := n }
      { t with msgValid := false, buf := l, pstate := p, errCount := m } := by
  obtain ⟨hcfg, hcrc, -, -, -, -, hin, hport, -⟩ := h
  exact ⟨hcfg, hcrc, rfl, rfl, hn, rfl, hin, hport, nofun⟩

/-- A delivered message overwrites all three message registers (R80). -/
theorem deliver_agrees (h : Agrees s t) (m : Message) :
    Agrees (({ s with buf := [], pstate := .idle } : State).deliver m)
      (({ t with buf := [], pstate := .idle } : State).deliver m) := by
  obtain ⟨hcfg, hcrc, -, -, herr, -, hin, hport, -⟩ := h
  exact ⟨hcfg, hcrc, rfl, rfl, herr, rfl, hin, hport, fun _ => ⟨rfl, rfl, rfl⟩⟩

theorem feedByte_agrees (h : Agrees s t) (b : Byte) :
    Agrees (feedByte s b).1 (feedByte t b).1 ∧ (feedByte s b).2 = (feedByte t b).2 := by
  obtain ⟨hcfg, -, hp, hbuf, herr, -⟩ := id h
  cases hs : s.pstate with
  | idle =>
    have ht : t.pstate = .idle := hp ▸ hs
    rw [feedByte_idle hs, feedByte_idle ht, ← hbuf, hs, ht]
    refine ⟨?_, rfl⟩
    dsimp only
    split <;> exact undelivered_agrees h _ _ herr
  | readingHeader =>
    have ht : t.pstate = .readingHeader := hp ▸ hs
    rw [feedByte_header hs, feedByte_header ht, ← hbuf, hs, ht]
    refine ⟨?_, rfl⟩
    dsimp only
    split_ifs <;> exact undelivered_agrees h _ _ herr
  | readingLength =>
    rw [feedByte_length hs, feedByte_length (hp ▸ hs), ← hbuf]
    exact ⟨undelivered_agrees h _ _ herr, rfl⟩
  | readingPayload =>
    rw [feedByte_payload hs, feedByte_payload (hp ▸ hs), ← hbuf]
    exact ⟨undelivered_agrees h _ _ herr, rfl⟩
  | readingCrc =>
    have ht : t.pstate = .readingCrc := hp ▸ hs
    by_cases hn : s.buf.length + 1 = 8 + rxLen (s.buf ++ [b])
    · by_cases hc : crc16 s.cfg (crcCovered (s.buf ++ [b])) = receivedCrc (s.buf ++ [b])
      · rw [feedByte_crc_good hs hn hc,
          feedByte_crc_good ht (hbuf ▸ hn) (hbuf ▸ hcfg ▸ hc), ← hbuf]
        exact ⟨deliver_agrees h _, rfl⟩
      · rw [feedByte_crc_bad hs hn hc, feedByte_crc_bad ht (hbuf ▸ hn) (hbuf ▸ hcfg ▸ hc)]
        exact ⟨undelivered_agrees h _ _ (by rw [hcfg, herr]), rfl⟩
    · rw [feedByte_crc_more hs hn, feedByte_crc_more ht (hbuf ▸ hn), ← hbuf, hs, ht]
      exact ⟨undelivered_agrees h _ _ herr, rfl⟩

theorem feed_agrees (h : Agrees s t) (d : List Byte) :
    Agrees (feed s d).1 (feed t d).1 ∧ (feed s d).2 = (feed t d).2 := by
  induction d generalizing s t with
  | nil => exact ⟨h, rfl⟩
  | cons b d ih =>
    obtain ⟨hbyte, hmsg⟩ := feedByte_agrees h b
    obtain ⟨hrest, hmsgs⟩ := ih hbyte
    exact ⟨hrest, by simp only [feed, hmsg, hmsgs]⟩

theorem exec_agrees (h : Agrees s t) (i : Instr) :
    ∃ s' t', exec i s = .next s' ∧ exec i t = .next t' ∧ Agrees s' t' := by
  cases hi : isParserCommand i with
  | false =>
    obtain ⟨v, r, hs, ht, -⟩ := exec_nonParser_agrees hi h
    exact ⟨_, _, hs, ht, respond_agrees (writeCrc_agrees h v) r⟩
  | true =>
    cases i with
    | prsByte b =>
      obtain ⟨hstate, hmsg⟩ := feedByte_agrees h b
      exact ⟨_, _, exec_prsByte b s, exec_prsByte b t, hmsg ▸ respond_agrees hstate _⟩
    | prsBuf d =>
      obtain ⟨hstate, hmsgs⟩ := feed_agrees (clearMsgValid_agrees h) d
      exact ⟨_, _, exec_prsBuf d s, exec_prsBuf d t, hmsgs ▸ respond_agrees hstate _⟩
    | prsReset =>
      obtain ⟨-, -, -, -, herr, -⟩ := id h
      exact ⟨_, _, exec_prsReset s, exec_prsReset t,
        respond_agrees (undelivered_agrees h _ _ herr) _⟩
    | _ => cases hi

/-- Settles O42: by the event at the port, from `exec_agrees`. -/
theorem staleMessageIsUnobservable : Obligations.StaleMessageIsUnobservable := by
  intro s t h
  obtain ⟨hcfg, -, -, -, -, -, hin, -⟩ := id h
  match hs : s.inputs with
  | [] => exact ⟨s, t, step_empty hs, step_empty (hin ▸ hs), h⟩
  | .powerOnReset :: rest =>
    exact ⟨_, _, step_powerOnReset hs, step_powerOnReset (hin ▸ hs), hcfg ▸ agrees_refl _⟩
  | .command c :: rest =>
    have ht : t.inputs = .command c :: rest := hin ▸ hs
    cases hd : decode c with
    | ok i =>
      rw [step_legal hs hd, step_legal ht hd]
      exact exec_agrees (setInputs_agrees h rest) i
    | error e =>
      exact ⟨_, _, step_illegal hs hd, step_illegal ht hd,
        respond_agrees (setInputs_agrees h rest) _⟩

end Sys2Proof.Machine
end

section
/-! The fields of the six status registers (R29, R30, R31) as numbers and bits. -/

namespace Sys2Proof.Machine

/-- The six status registers, by number (R29). -/
def registerMap (s : State) : Fin 6 → Word :=
  ![s.crcReg.setWidth 32, parserStatus s, BitVec.ofNat 32 s.buf.length,
    BitVec.ofNat 32 (rxLen s.buf), BitVec.ofNat 32 s.errCount, msgInfo s]

theorem statusRegister_eq_registerMap (s : State) (k : Fin 6) :
    statusRegister (BitVec.ofNat 8 k.val) s = some (registerMap s k) := by
  fin_cases k <;> rfl

theorem registerMap_reset : ∀ k : Fin 6,
    registerMap State.reset k = if k = 0 then 0x0000FFFF else 0 := by decide

theorem statusRegister_unimplemented {n : Byte} (s : State) (h : 6 ≤ n.toNat) :
    statusRegister n s = none := by
  have hne : ∀ k < 6, n ≠ BitVec.ofNat 8 k := by
    rintro k hk rfl
    rw [BitVec.toNat_ofNat] at h
    omega
  simp [statusRegister, hne]

/-- The bits of PARSER_STATUS (R30), case by case of the two fields it shows. -/
theorem parserStatus_fields (s : State) :
    (parserStatus s).extractLsb' 0 3 = BitVec.ofNat 3 s.pstate.code ∧
      (parserStatus s).getLsbD 3 = s.msgValid ∧ (parserStatus s).extractLsb' 4 28 = 0 := by
  unfold parserStatus
  cases s.msgValid <;> cases s.pstate <;> decide

theorem rxLen_eq (l : List Byte) :
    rxLen l = if 4 ≤ l.length then (l.getD 2 0).toNat * 256 + (l.getD 3 0).toNat else 0 := by
  match l with
  | [] | [_] | [_, _] | [_, _, _] => rfl
  | _ :: _ :: hi :: lo :: rest => simp [rxLen, be16_toNat]

/-! MSG_INFO while `msg_valid = 1` (R31). -/

theorem msgInfo_type {s : State} (h : s.msgValid = true) :
    (msgInfo s).extractLsb' 0 8 = s.msgType := by
  rw [msgInfo, if_pos h]
  ext k hk
  have hlt : k < 32 ∧ k < 16 := by omega
  simp [hlt, hk]

theorem msgInfo_seq {s : State} (h : s.msgValid = true) :
    (msgInfo s).extractLsb' 8 8 = s.msgSeq := by
  rw [msgInfo, if_pos h]
  ext k hk
  have hlt : 8 + k < 32 ∧ 8 + k < 16 := by omega
  simp [hlt, hk]

theorem msgInfo_length {s : State} (h : s.msgValid = true) :
    (msgInfo s).extractLsb' 16 16 = BitVec.ofNat 16 s.msgPayload.length := by
  rw [msgInfo, if_pos h]
  ext k hk
  have hlt : 16 + k < 32 ∧ ¬ 16 + k < 16 := by omega
  have hseq : s.msgSeq.getLsbD (16 + k - 8) = false := BitVec.getLsbD_of_ge _ _ (by omega)
  have htype : s.msgType.getLsbD (16 + k) = false := BitVec.getLsbD_of_ge _ _ (by omega)
  have hlow : (BitVec.ofNat 32 s.msgPayload.length)[k] =
      (BitVec.ofNat 16 s.msgPayload.length)[k] := by
    rw [← BitVec.getLsbD_eq_getElem, ← BitVec.getLsbD_eq_getElem, BitVec.getLsbD_ofNat,
      BitVec.getLsbD_ofNat, decide_eq_true hk, decide_eq_true (hk.trans (by decide))]
  simp [hlt, hseq, htype, hlow]

/-- A number that fits its field is shown whole. -/
theorem toNat_ofNat_of_fits {w n : Nat} (h : n < 2 ^ w) : (BitVec.ofNat w n).toNat = n := by
  rw [BitVec.toNat_ofNat, Nat.mod_eq_of_lt h]

/-- Settles O29: the fields of each register, the bounds of R17 and R22 keeping each number within
its bits. -/
theorem statusRegisterMap : Obligations.StatusRegisterMap := by
  refine ⟨fun s ⟨hparser, herr, hpayload⟩ hwf => ?_,
    fun k => registerMap_reset k ▸ exec_regRead_some (statusRegister_eq_registerMap _ k),
    fun n s hn => exec_regRead_none (statusRegister_unimplemented s hn)⟩
  have hbuf := buf_length_lt hparser
  have hlen := rxLen_le s.buf
  have hcount : s.errCount < 2 ^ 32 := herr.trans_le (Nat.pow_le_pow_right (by decide) hwf.2.2)
  obtain ⟨hcode, hvalid, hunused⟩ := parserStatus_fields s
  refine ⟨registerMap s, fun k => exec_regRead_some (statusRegister_eq_registerMap s k),
    BitVec.toNat_setWidth_of_le (b := s.crcReg) (by decide), hcode, hvalid, hunused,
    toNat_ofNat_of_fits (by omega), hbuf.le, ?_, toNat_ofNat_of_fits hcount,
    fun hv => ⟨msgInfo_type hv, msgInfo_seq hv, ?_⟩, fun hv => if_neg (by simp [hv])⟩
  · rw [← rxLen_eq]
    exact toNat_ofNat_of_fits (by omega)
  · change ((msgInfo s).extractLsb' 16 16).toNat = _
    rw [msgInfo_length hv]
    exact toNat_ofNat_of_fits (Nat.lt_succ_of_le hpayload)

end Sys2Proof.Machine
end

section
/-! Decoding a command's own encoding (R49, R51): each format accepts the word packed for it.
The zero fields are spelled as `simp` leaves them. -/

namespace Sys2Proof

theorem formatF0_packWord (opc : Byte) (i : Instr) :
    formatF0 ⟨packWord opc 0#8 0#16, []⟩ i = .ok i :=
  formatF0_eq_ok.mpr ⟨fieldA_packWord _ _ _, fieldImm_packWord _ _ _, rfl, rfl⟩

theorem formatF16_packWord (opc : Byte) (imm : Half) (mk : Half → Instr) :
    formatF16 ⟨packWord opc 0#8 imm, []⟩ mk = .ok (mk imm) :=
  formatF16_eq_ok.mpr ⟨fieldA_packWord _ _ _, rfl, congrArg mk (fieldImm_packWord _ _ _)⟩

theorem formatF8_packWord (opc b : Byte) (mk : Byte → Instr) :
    formatF8 ⟨packWord opc 0#8 (immOfByte b), []⟩ mk = .ok (mk b) :=
  formatF8_eq_ok.mpr ⟨fieldA_packWord _ _ _, fieldImmHi_packWord_byte _ _ _, rfl,
    congrArg mk (fieldImmLo_packWord_byte _ _ _)⟩

theorem formatFD_packWord (opc : Byte) (d : List Byte) (mk : List Byte → Instr) :
    formatFD ⟨packWord opc 0#8 0#16, d⟩ mk = .ok (mk d) :=
  formatFD_eq_ok.mpr ⟨fieldA_packWord _ _ _, fieldImm_packWord _ _ _, rfl⟩

theorem formatFAD_packWord (opc a b : Byte) (d : List Byte)
    (mk : Byte → Byte → List Byte → Instr) :
    formatFAD ⟨packWord opc a (immOfByte b), d⟩ mk = .ok (mk a b d) :=
  formatFAD_eq_ok.mpr ⟨fieldImmHi_packWord_byte _ _ _, by
    rw [fieldA_packWord, fieldImmLo_packWord_byte]⟩

theorem formatFA_packWord (opc a : Byte) (mk : Byte → Instr) :
    formatFA ⟨packWord opc a 0#16, []⟩ mk = .ok (mk a) :=
  formatFA_eq_ok.mpr ⟨fieldImm_packWord _ _ _, rfl, congrArg mk (fieldA_packWord _ _ _)⟩

/-- The opcode of a command's row selects its own format, which reads its operands back. -/
theorem decode_encode (i : Instr) : decode (encode i) = .ok i := by
  cases i <;>
    simp [decode, encode, fieldOpc_packWord, formatF0_packWord, formatF16_packWord,
      formatF8_packWord, formatFD_packWord, formatFAD_packWord, formatFA_packWord]

end Sys2Proof
end

section
/-! Commands at the port one after another (R42, R44): each leaves one response and never looks at
the commands behind it. -/

namespace Sys2Proof.Machine

variable {s t : State} {i : Instr} {rest : List PortEvent}

/-- Every command completes and leaves a response on the result port (R37, R96). -/
theorem exec_responds (i : Instr) (s : State) : ∃ u r, exec i s = .next (State.respond u r) := by
  cases hi : isParserCommand i with
  | false =>
    obtain ⟨v, r, he, -⟩ := exec_nonParser hi s
    exact ⟨_, r, he⟩
  | true =>
    cases i with
    | prsByte b => exact ⟨_, _, exec_prsByte b s⟩
    | prsBuf d => exact ⟨_, _, exec_prsBuf d s⟩
    | prsReset => exact ⟨_, _, exec_prsReset s⟩
    | _ => cases hi

theorem exec_resultPort (h : exec i s = .next t) : ∃ r, t.resultPort = some r := by
  obtain ⟨u, r, he⟩ := exec_responds i s
  cases he.symm.trans h
  exact ⟨r, rfl⟩

theorem step_encoded (h : s.inputs = .command (encode i) :: rest) :
    step s = exec i (s.setInputs rest) :=
  step_legal h (decode_encode i)

theorem setInputs_of_inputs_eq (h : s.inputs = rest) : s.setInputs rest = s := by
  subst h; rfl

theorem runInstrs_cons {is : List Instr} {u : State} {r : Response} {rs : List Response}
    (hexec : exec i s = .next t) (hr : t.resultPort = some r)
    (hrun : runInstrs is t = some (u, rs)) :
    runInstrs (i :: is) s = some (u, r :: rs) := by
  simp [runInstrs, hexec, hr, hrun]

theorem run_succ (n : Nat) (h : step s = .next t) :
    Host.Core.run Sys2Proof.core (n + 1) s = Host.Core.run Sys2Proof.core n t := by
  have hcore : Sys2Proof.core.step s = .next t := h
  simp only [Host.Core.run, hcore]

/-- Settles O51, by induction on the commands: by `exec_setInputs` the first command does the same
whatever waits behind it. -/
theorem commandsRunInOrder : Obligations.CommandsRunInOrder := by
  intro is
  induction is with
  | nil =>
    intro s rest hin
    exact ⟨s, [], congrArg (fun u => some (u, [])) (setInputs_of_inputs_eq hin), rfl, rfl⟩
  | cons i is ih =>
    intro s rest hin
    obtain ⟨t, hexec, hqueued, hrest⟩ := exec_setInputs i (s.setInputs rest)
      (is.map (fun i => .command (encode i)) ++ rest)
    have hstep : step s = .next (t.setInputs _) := (step_encoded hin).trans hqueued
    obtain ⟨r, hr⟩ := exec_resultPort hexec
    obtain ⟨u, rs, hrun, hlen, hsteps⟩ := ih (t.setInputs _) rest rfl
    have hrun' : runInstrs is t = some (u, rs) := setInputs_of_inputs_eq hrest ▸ hrun
    exact ⟨u, r :: rs, runInstrs_cons hexec hr hrun', congrArg (· + 1) hlen,
      (run_succ _ hstep).trans hsteps⟩

end Sys2Proof.Machine
end

section
/-! The encoding theorems: every legal command is the encoding of what it decodes to, and the legal
commands are the rows of the opcode table (R49 to R52). -/

namespace Sys2Proof

variable {c : Command} {i : Instr} {opc : Byte}

/-- Settles O45: the opcode of a command's row selects the format that reads its operands back. -/
theorem decodeEncodeRoundTrip : Obligations.DecodeEncodeRoundTrip := decode_encode

/-! ## Encoding what was decoded

One lemma per format of R49: a word that a format accepts is packed from the operands read. -/

theorem encode_of_formatF0 {j : Instr} (hopc : fieldOpc c.word = opc)
    (h : formatF0 c j = .ok i) (henc : encode j = ⟨packWord opc 0 0, []⟩) : encode i = c := by
  obtain ⟨ha, himm, hdata, rfl⟩ := formatF0_eq_ok.mp h
  exact henc.trans (command_eq hopc ha himm hdata)

theorem encode_of_formatF16 {mk : Half → Instr} (hopc : fieldOpc c.word = opc)
    (h : formatF16 c mk = .ok i)
    (henc : ∀ imm, encode (mk imm) = ⟨packWord opc 0 imm, []⟩) : encode i = c := by
  obtain ⟨ha, hdata, rfl⟩ := formatF16_eq_ok.mp h
  exact (henc _).trans (command_eq hopc ha rfl hdata)

theorem encode_of_formatF8 {mk : Byte → Instr} (hopc : fieldOpc c.word = opc)
    (h : formatF8 c mk = .ok i)
    (henc : ∀ b, encode (mk b) = ⟨packWord opc 0 (immOfByte b), []⟩) : encode i = c := by
  obtain ⟨ha, hhi, hdata, rfl⟩ := formatF8_eq_ok.mp h
  exact (henc _).trans (command_eq hopc ha (immOfByte_fieldImmLo hhi).symm hdata)

theorem encode_of_formatFD {mk : List Byte → Instr} (hopc : fieldOpc c.word = opc)
    (h : formatFD c mk = .ok i)
    (henc : ∀ d, encode (mk d) = ⟨packWord opc 0 0, d⟩) : encode i = c := by
  obtain ⟨ha, himm, rfl⟩ := formatFD_eq_ok.mp h
  exact (henc _).trans (command_eq hopc ha himm rfl)

theorem encode_of_formatFAD {mk : Byte → Byte → List Byte → Instr} (hopc : fieldOpc c.word = opc)
    (h : formatFAD c mk = .ok i)
    (henc : ∀ t q d, encode (mk t q d) = ⟨packWord opc t (immOfByte q), d⟩) : encode i = c := by
  obtain ⟨hhi, rfl⟩ := formatFAD_eq_ok.mp h
  exact (henc _ _ _).trans (command_eq hopc rfl (immOfByte_fieldImmLo hhi).symm rfl)

theorem encode_of_formatFA {mk : Byte → Instr} (hopc : fieldOpc c.word = opc)
    (h : formatFA c mk = .ok i)
    (henc : ∀ n, encode (mk n) = ⟨packWord opc n 0, []⟩) : encode i = c := by
  obtain ⟨himm, hdata, rfl⟩ := formatFA_eq_ok.mp h
  exact (henc _).trans (command_eq hopc rfl himm hdata)

/-- The opcode of a legal command gives its format, and that format the encoding. -/
theorem encode_of_decode (h : decode c = .ok i) : encode i = c := by
  unfold decode at h
  split at h
  · next hopc => exact encode_of_formatF0 hopc h rfl
  split at h
  · next hopc => exact encode_of_formatF16 hopc h (fun _ => rfl)
  split at h
  · next hopc => exact encode_of_formatF8 hopc h (fun _ => rfl)
  split at h
  · next hopc => exact encode_of_formatFD hopc h (fun _ => rfl)
  split at h
  · next hopc => exact encode_of_formatF0 hopc h rfl
  split at h
  · next hopc => exact encode_of_formatFAD hopc h (fun _ _ _ => rfl)
  split at h
  · next hopc => exact encode_of_formatFD hopc h (fun _ => rfl)
  split at h
  · next hopc => exact encode_of_formatF8 hopc h (fun _ => rfl)
  split at h
  · next hopc => exact encode_of_formatFD hopc h (fun _ => rfl)
  split at h
  · next hopc => exact encode_of_formatF0 hopc h rfl
  split at h
  · next hopc => exact encode_of_formatFA hopc h (fun _ => rfl)
  cases h

/-- Settles O46: by the opcode, the format of its row packs the operands it read. -/
theorem encodeDecodeRoundTrip : Obligations.EncodeDecodeRoundTrip := fun _ _ => encode_of_decode

/-- A command is legal exactly when it is the encoding of some instruction. -/
theorem exists_decode_iff : (∃ i, decode c = .ok i) ↔ ∃ i, encode i = c := by
  constructor
  · rintro ⟨i, h⟩
    exact ⟨i, encode_of_decode h⟩
  · rintro ⟨i, rfl⟩
    exact ⟨i, decode_encode i⟩

/-! ## The rows of the opcode table, field by field -/

theorem packWord_and (opc a mo ma : Byte) (imm mi : Half) :
    packWord opc a imm &&& packWord mo ma mi = packWord (opc &&& mo) (a &&& ma) (imm &&& mi) :=
  BitVec.and_append.trans (congrArg (· ++ (imm &&& mi)) BitVec.and_append)

theorem packWord_inj {opc a opc' a' : Byte} {imm imm' : Half} :
    packWord opc a imm = packWord opc' a' imm' ↔ opc = opc' ∧ a = a' ∧ imm = imm' := by
  constructor
  · intro h
    refine ⟨?_, ?_, ?_⟩
    · simpa only [fieldOpc_packWord] using congrArg fieldOpc h
    · simpa only [fieldA_packWord] using congrArg fieldA h
    · simpa only [fieldImm_packWord] using congrArg fieldImm h
  · rintro ⟨rfl, rfl, rfl⟩
    rfl

end Sys2Proof

namespace Sys2Proof.Machine

variable {c : Command}

theorem and_byteMask (a : Byte) : a &&& 0xFF#8 = a := BitVec.and_allOnes

theorem and_halfMask (v : Half) : v &&& 0xFFFF#16 = v := BitVec.and_allOnes

/-- The row of a command with opcode `opc`, whose mask keeps the bits `ma` of `A` and `mi` of `IMM`
that its format marks 0 (R49). -/
def formRow (opc ma : Byte) (mi : Half) (dataPort : Bool) : OpcodeRow where
  pattern := packWord opc 0#8 0#16
  mask := packWord 0xFF#8 ma mi
  dataPort := dataPort

theorem opcodeRows_eq : opcodeRows =
    [formRow 0x01#8 0xFF#8 0xFFFF#16 false, formRow 0x02#8 0xFF#8 0x0000#16 false,
      formRow 0x03#8 0xFF#8 0xFF00#16 false, formRow 0x04#8 0xFF#8 0xFFFF#16 true,
      formRow 0x05#8 0xFF#8 0xFFFF#16 false, formRow 0x10#8 0x00#8 0xFF00#16 true,
      formRow 0x11#8 0xFF#8 0xFFFF#16 true, formRow 0x20#8 0xFF#8 0xFF00#16 false,
      formRow 0x21#8 0xFF#8 0xFFFF#16 true, formRow 0x22#8 0xFF#8 0xFFFF#16 false,
      formRow 0x30#8 0x00#8 0xFFFF#16 false] := by decide

theorem formRow_matches (opc ma : Byte) (mi : Half) (p : Bool) (c : Command) :
    (formRow opc ma mi p).matches c ↔
      fieldOpc c.word = opc ∧ fieldA c.word &&& ma = 0#8 ∧ fieldImm c.word &&& mi = 0#16 ∧
        (p = true ∨ c.data = []) := by
  have hword : c.word &&& packWord 0xFF#8 ma mi = packWord opc 0#8 0#16 ↔
      fieldOpc c.word = opc ∧ fieldA c.word &&& ma = 0#8 ∧ fieldImm c.word &&& mi = 0#16 := by
    rw [← packWord_fields c.word, packWord_and, packWord_inj, packWord_fields, and_byteMask]
  simp only [OpcodeRow.matches, formRow, hword, and_assoc]

/-- The mask of `IMM` in formats F8 and FAD keeps the high byte alone. -/
theorem and_hiMask (v : Half) : v &&& 0xFF00#16 = be16 (hi8 v) 0#8 :=
  calc v &&& 0xFF00#16 = be16 (hi8 v) (lo8 v) &&& be16 0xFF#8 0#8 := by rw [be16_hi8_lo8]; rfl
    _ = be16 (hi8 v &&& 0xFF#8) (lo8 v &&& 0#8) := BitVec.and_append
    _ = be16 (hi8 v) 0#8 := by rw [BitVec.and_zero, and_byteMask]

theorem and_hiMask_eq_zero {v : Half} : v &&& 0xFF00#16 = 0#16 ↔ hi8 v = 0#8 := by
  rw [and_hiMask]
  constructor
  · intro h
    exact (hi8_be16 (hi8 v) 0#8).symm.trans (congrArg hi8 h)
  · intro h
    rw [h]
    rfl

theorem hi8_immOfByte (b : Byte) : hi8 (immOfByte b) = 0#8 := hi8_be16 0 b

/-- A command that a row of format F8 or FAD matches has a byte for its immediate. -/
theorem fieldImm_of_hi8 {w : Word} (h : hi8 (fieldImm w) = 0#8) :
    fieldImm w = immOfByte (fieldImmLo w) :=
  (immOfByte_fieldImmLo ((fieldImmHi_eq w).trans h)).symm

/-- An encoded command is of its own row's form: its opcode is the row's, and the fields its format
marks 0 are packed as 0. -/
theorem exists_row_of_encode (i : Instr) : ∃ r ∈ opcodeRows, r.matches (encode i) := by
  rw [opcodeRows_eq]
  cases i <;>
    simp [formRow_matches, encode, fieldOpc_packWord, fieldA_packWord, fieldImm_packWord,
      and_hiMask_eq_zero, hi8_immOfByte]

/-- The fields that a row leaves open are the operands of the command to encode. -/
theorem exists_encode_of_matches {r : OpcodeRow} (hr : r ∈ opcodeRows) (h : r.matches c) :
    ∃ i, encode i = c := by
  rw [opcodeRows_eq] at hr
  simp only [List.mem_cons, List.not_mem_nil, or_false] at hr
  rcases hr with rfl | rfl | rfl | rfl | rfl | rfl | rfl | rfl | rfl | rfl | rfl <;>
    simp only [formRow_matches, and_byteMask, and_halfMask, and_hiMask_eq_zero, BitVec.and_zero,
      Bool.false_eq_true, true_or, false_or, true_and, and_true] at h
  · obtain ⟨hopc, ha, himm, hdata⟩ := h
    exact ⟨.crcInit, command_eq hopc ha himm hdata⟩
  · obtain ⟨hopc, ha, hdata⟩ := h
    exact ⟨.crcLoad _, command_eq hopc ha rfl hdata⟩
  · obtain ⟨hopc, ha, hhi, hdata⟩ := h
    exact ⟨.crcByte _, command_eq hopc ha (fieldImm_of_hi8 hhi) hdata⟩
  · obtain ⟨hopc, ha, himm⟩ := h
    exact ⟨.crcBuf _, command_eq hopc ha himm rfl⟩
  · obtain ⟨hopc, ha, himm, hdata⟩ := h
    exact ⟨.crcRead, command_eq hopc ha himm hdata⟩
  · obtain ⟨hopc, hhi⟩ := h
    exact ⟨.encBuild _ _ _, command_eq hopc rfl (fieldImm_of_hi8 hhi) rfl⟩
  · obtain ⟨hopc, ha, himm⟩ := h
    exact ⟨.encValidate _, command_eq hopc ha himm rfl⟩
  · obtain ⟨hopc, ha, hhi, hdata⟩ := h
    exact ⟨.prsByte _, command_eq hopc ha (fieldImm_of_hi8 hhi) hdata⟩
  · obtain ⟨hopc, ha, himm⟩ := h
    exact ⟨.prsBuf _, command_eq hopc ha himm rfl⟩
  · obtain ⟨hopc, ha, himm, hdata⟩ := h
    exact ⟨.prsReset, command_eq hopc ha himm hdata⟩
  · obtain ⟨hopc, himm, hdata⟩ := h
    exact ⟨.regRead _, command_eq hopc rfl himm hdata⟩

theorem legal_iff_matches : (∃ i, decode c = .ok i) ↔ ∃ r ∈ opcodeRows, r.matches c := by
  rw [exists_decode_iff]
  constructor
  · rintro ⟨i, rfl⟩
    exact exists_row_of_encode i
  · rintro ⟨r, hr, h⟩
    exact exists_encode_of_matches hr h

/-! ## No command has the form of two rows -/

/-- Every mask keeps the whole opcode. -/
theorem fieldOpc_mask : ∀ r ∈ opcodeRows, fieldOpc r.mask = 0xFF#8 := by decide

theorem fieldOpc_of_matches {r : OpcodeRow} (hr : r ∈ opcodeRows) (h : r.matches c) :
    fieldOpc r.pattern = fieldOpc c.word :=
  calc fieldOpc r.pattern = fieldOpc (c.word &&& r.mask) := congrArg fieldOpc h.1.symm
    _ = fieldOpc c.word &&& fieldOpc r.mask := BitVec.extractLsb'_and
    _ = fieldOpc c.word := by rw [fieldOpc_mask r hr, and_byteMask]

/-- No two rows have one opcode (R51). -/
theorem eq_of_fieldOpc_pattern : ∀ r ∈ opcodeRows, ∀ r' ∈ opcodeRows,
    fieldOpc r.pattern = fieldOpc r'.pattern → r = r' := by decide

/-- Settles O47: the rows' forms are those of the encodings, and the opcode alone tells the row. -/
theorem legalCommandsAreTheTableRows : Obligations.LegalCommandsAreTheTableRows := by
  refine ⟨fun _ => legal_iff_matches, fun s c rest hin hrow => ?_, fun c r hr r' hr' h h' => ?_⟩
  · cases hd : decode c with
    | ok i => exact absurd (legal_iff_matches.mp ⟨i, hd⟩) hrow
    | error e => exact step_illegal hin hd
  · exact eq_of_fieldOpc_pattern r hr r' hr'
      ((fieldOpc_of_matches hr h).trans (fieldOpc_of_matches hr' h').symm)

end Sys2Proof.Machine
end

section
/-! Words written out (R54): the literal words of the encoding column, and operands that do or do
not fit their fields. -/

namespace Sys2Proof

/-- Settles O48: seven of the words are encodings, whose decoding `decode_encode` gives; each of the
other three is refused on one ground of R52. -/
theorem writtenWordsDecode : Obligations.WrittenWordsDecode :=
  ⟨decode_encode .crcInit, decode_encode (.crcLoad 0x29B1), decode_encode (.crcByte 0x41),
    decode_encode (.encBuild 0x03 0x7F [0x01, 0x02, 0x03]), decode_encode (.prsByte 0xAA),
    decode_encode (.prsBuf [0xAA, 0x55]), decode_encode (.regRead 0x05),
    by decide, by decide, by decide⟩

/-! ## An operand in its field -/

/-- The fields of a word stand side by side (R48). -/
theorem packWord_eq_or (opc a : Byte) (imm : Half) : packWord opc a imm =
    opc.setWidth 32 <<< 24 ||| a.setWidth 32 <<< 16 ||| imm.setWidth 32 :=
  (BitVec.setWidth_eq _).symm.trans BitVec.setWidth_append_append_eq_shiftLeft_setWidth_or

theorem packWord_eq_or_imm (opc a : Byte) (imm : Half) :
    packWord opc a imm = packWord opc a 0 ||| imm.setWidth 32 := by
  simp only [packWord_eq_or, BitVec.ofNat_eq_ofNat, BitVec.setWidth_zero, BitVec.or_zero]

theorem packWord_eq_or_a (opc a : Byte) :
    packWord opc a 0 = packWord opc 0 0 ||| a.setWidth 32 <<< 16 := by
  simp [packWord_eq_or]

variable {n : Nat}

theorem setWidth_immOfByte (b : Byte) : (immOfByte b).setWidth 32 = b.setWidth 32 := by
  have hnat : (immOfByte b).toNat = b.toNat :=
    (Machine.be16_toNat 0 b).trans (by simp)
  exact BitVec.eq_of_toNat_eq (by rw [BitVec.toNat_setWidth, BitVec.toNat_setWidth, hnat])

theorem packWord_half (opc : Byte) (h : n ≤ 0xFFFF) :
    packWord opc 0 (BitVec.ofNat 16 n) = packWord opc 0 0 ||| BitVec.ofNat 32 n := by
  rw [packWord_eq_or_imm, BitVec.setWidth_ofNat_of_le_of_lt (by decide) (Nat.lt_succ_of_le h)]

theorem packWord_byte (opc a : Byte) (h : n ≤ 0xFF) :
    packWord opc a (immOfByte (BitVec.ofNat 8 n)) = packWord opc a 0 ||| BitVec.ofNat 32 n := by
  rw [packWord_eq_or_imm, setWidth_immOfByte,
    BitVec.setWidth_ofNat_of_le_of_lt (by decide) (Nat.lt_succ_of_le h)]

theorem packWord_a (opc : Byte) (h : n ≤ 0xFF) :
    packWord opc (BitVec.ofNat 8 n) 0 = packWord opc 0 0 ||| BitVec.ofNat 32 n <<< 16 := by
  rw [packWord_eq_or_a, BitVec.setWidth_ofNat_of_le_of_lt (by decide) (Nat.lt_succ_of_le h)]

end Sys2Proof

namespace Sys2Proof.Machine

theorem byteOperand_fits {n : Nat} (h : n ≤ 0xFF) : byteOperand n = some (BitVec.ofNat 8 n) :=
  if_pos h

theorem byteOperand_too_large {n : Nat} (h : ¬ n ≤ 0xFF) : byteOperand n = none := if_neg h

theorem halfOperand_fits {n : Nat} (h : n ≤ 0xFFFF) : halfOperand n = some (BitVec.ofNat 16 n) :=
  if_pos h

theorem halfOperand_too_large {n : Nat} (h : ¬ n ≤ 0xFFFF) : halfOperand n = none := if_neg h

theorem byteOperand_toNat (b : Byte) : byteOperand b.toNat = some b := by
  rw [byteOperand_fits (Nat.le_of_lt_succ b.isLt), BitVec.ofNat_toNat, BitVec.setWidth_eq]

theorem halfOperand_toNat (v : Half) : halfOperand v.toNat = some v := by
  rw [halfOperand_fits (Nat.le_of_lt_succ v.isLt), BitVec.ofNat_toNat, BitVec.setWidth_eq]

/-! ## The lines with operands -/

theorem assemble_crcLoad (n : Nat) : assemble (.crcLoad n) =
    if n ≤ 0xFFFF then some [⟨0x02000000 ||| BitVec.ofNat 32 n, []⟩] else none := by
  split
  · next h =>
    have hword : packWord 0x02 0 (BitVec.ofNat 16 n) = 0x02000000 ||| BitVec.ofNat 32 n :=
      packWord_half 0x02 h
    rw [assemble, expand, halfOperand_fits h, ← hword]
    rfl
  · next h =>
    rw [assemble, expand, halfOperand_too_large h]
    rfl

/-- A line whose one operand is a byte: `mk` is the instruction, `w` its word. -/
theorem assemble_byteOperand {a : Asm} {n : Nat} {mk : Byte → Instr} {w : Word}
    (hexpand : expand a = (byteOperand n).map fun v => [mk v])
    (hencode : n ≤ 0xFF → encode (mk (BitVec.ofNat 8 n)) = ⟨w, []⟩) :
    assemble a = if n ≤ 0xFF then some [⟨w, []⟩] else none := by
  split
  · next h =>
    simp only [assemble, hexpand, byteOperand_fits h, Option.map_some, List.map, hencode h]
  · next h =>
    simp only [assemble, hexpand, byteOperand_too_large h, Option.map_none]

theorem assemble_encBuild (t q : Nat) (d : List Byte) : assemble (.encBuild t q d) =
    if t ≤ 0xFF ∧ q ≤ 0xFF then
      some [⟨0x10000000 ||| (BitVec.ofNat 32 t <<< 16) ||| BitVec.ofNat 32 q, d⟩]
    else none := by
  by_cases ht : t ≤ 0xFF
  · by_cases hq : q ≤ 0xFF
    · have hword : packWord 0x10 (BitVec.ofNat 8 t) (immOfByte (BitVec.ofNat 8 q)) =
          0x10000000 ||| (BitVec.ofNat 32 t <<< 16) ||| BitVec.ofNat 32 q := by
        rw [packWord_byte _ _ hq, packWord_a _ ht]
        rfl
      rw [if_pos ⟨ht, hq⟩, assemble, expand, byteOperand_fits ht, byteOperand_fits hq, ← hword]
      rfl
    · rw [if_neg (fun h => hq h.2), assemble, expand, byteOperand_fits ht,
        byteOperand_too_large hq]
      rfl
  · rw [if_neg (fun h => ht h.1), assemble, expand, byteOperand_too_large ht]
    rfl

/-- Settles O52: a line without a number is its row's pattern and its data; a line with one is the
word with the number in its field, or an error. -/
theorem assemblerEncodings : Obligations.AssemblerEncodings := by
  refine ⟨rfl, assemble_crcLoad, fun n => ?_, fun _ => rfl, rfl, assemble_encBuild, fun _ => rfl,
    fun n => ?_, fun _ => rfl, rfl, fun n => ?_⟩
  · exact assemble_byteOperand (mk := .crcByte) rfl fun h =>
      congrArg (Command.mk · []) (packWord_byte 0x03 0 h)
  · exact assemble_byteOperand (mk := .prsByte) rfl fun h =>
      congrArg (Command.mk · []) (packWord_byte 0x20 0 h)
  · exact assemble_byteOperand (mk := .regRead) rfl fun h =>
      congrArg (Command.mk · []) (packWord_a 0x30 h)

end Sys2Proof.Machine
end

section
/-! What the pseudo-instructions compute (R56): the table-driven CRC is the bit-by-bit one (R60),
and the messages of a byte sequence depend on nothing of the block but the parser and the
parameters. -/

namespace Sys2Proof.Machine

/-! ## The table-driven step -/

theorem crcTable_getD (cfg : Config) (b : Byte) :
    (crcTable cfg).getD b.toNat 0 = crcStep cfg 0 b := by
  have hlen : b.toNat < (crcTable cfg).length := by
    simpa [crcTable] using b.isLt
  rw [List.getD_eq_getElem _ _ hlen]
  simp [crcTable]

/-! The running value taken apart into the byte that enters the table and the byte that only
shifts. -/

/-- MSB first (R57): the data byte meets the high byte. -/
theorem xor_shl_zext16 (c : Half) (b : Byte) : c ^^^ (zext16 b <<< 8) =
    zext16 (lo8 c) ^^^ (0 ^^^ (zext16 (hi8 c ^^^ b) <<< 8)) := by
  apply BitVec.eq_of_getLsbD_eq
  intro k hk
  by_cases hlow : k < 8
  · simp [zext16, lo8, hi8, hlow, hk]
  · have hindex : 8 + (k - 8) = k := by omega
    simp [zext16, lo8, hi8, hlow, hindex, hk, show k - 8 < 8 by omega]

/-- LSB first (R58): the data byte meets the low byte. -/
theorem xor_zext16 (c : Half) (b : Byte) : c ^^^ zext16 b =
    (zext16 (hi8 c) <<< 8) ^^^ (0 ^^^ zext16 (lo8 c ^^^ b)) := by
  apply BitVec.eq_of_getLsbD_eq
  intro k hk
  by_cases hlow : k < 8
  · simp [zext16, lo8, hi8, hlow, hk]
  · have hindex : 8 + (k - 8) = k := by omega
    simp [zext16, lo8, hi8, hlow, hindex, hk, show k - 8 < 8 by omega]

theorem zext16_lo8_shl (c : Half) : zext16 (lo8 c) <<< 8 = c <<< 8 := by
  apply BitVec.eq_of_getLsbD_eq
  intro k hk
  simp [zext16, lo8, hk, show k - 8 < 8 by omega, show k - 8 < 16 by omega,
    -BitVec.getLsbD_eq_getElem]

theorem zext16_hi8_shl_shr (c : Half) : (zext16 (hi8 c) <<< 8) >>> 8 = c >>> 8 := by
  apply BitVec.eq_of_getLsbD_eq
  intro k hk
  by_cases hlow : k < 8
  · simp [zext16, hi8, hlow, hk, show 8 + k < 16 by omega, -BitVec.getLsbD_eq_getElem]
  · have htop : c.getLsbD (8 + k) = false := BitVec.getLsbD_of_ge _ _ (by omega)
    simp [htop, show ¬ 8 + k < 16 by omega]

theorem crcStepMsb_eq_table (poly c : Half) (b : Byte) :
    crcStepMsb poly c b = c <<< 8 ^^^ crcStepMsb poly 0 (hi8 c ^^^ b) := by
  have hshift : (crcShiftMsb poly)^[8] (zext16 (lo8 c)) = c <<< 8 := by
    rw [crcShiftMsb_iterate_clear, zext16_lo8_shl]
    intro k hk _
    rw [zext16, BitVec.getLsbD_setWidth, BitVec.getLsbD_of_ge _ _ hk, Bool.and_false]
  rw [crcStepMsb, xor_shl_zext16, iterate_xor _ _ (crcShiftMsb_xor poly), hshift]
  rfl

theorem crcStepLsb_eq_table (poly c : Half) (b : Byte) :
    crcStepLsb poly c b = c >>> 8 ^^^ crcStepLsb poly 0 (lo8 c ^^^ b) := by
  have hshift : (crcShiftLsb (rev16 poly))^[8] (zext16 (hi8 c) <<< 8) = c >>> 8 := by
    rw [crcShiftLsb_iterate_clear, zext16_hi8_shl_shr]
    intro k hk
    simp [hk]
  rw [crcStepLsb, xor_zext16, iterate_xor _ _ (crcShiftLsb_xor _), hshift]
  rfl

theorem crcStepFast_eq_crcStep (cfg : Config) (c : Half) (b : Byte) :
    crcStepFast cfg c b = crcStep cfg c b := by
  simp only [crcStepFast, crcTable_getD, crcStep]
  split
  · exact (crcStepLsb_eq_table cfg.crcPoly c b).symm
  · exact (crcStepMsb_eq_table cfg.crcPoly c b).symm

theorem crc16Fast_eq_crc16 (cfg : Config) (d : List Byte) : crc16Fast cfg d = crc16 cfg d := by
  have hstep : crcStepFast cfg = crcStep cfg :=
    funext fun c => funext fun b => crcStepFast_eq_crcStep cfg c b
  rw [crc16Fast, hstep]
  rfl

/-! ## The CRC pseudo-instructions -/

/-- A command that loads `crc_reg`, then CRC_BUF and CRC_READ. -/
theorem run_crc {i : Instr} {r : Half} {s : State}
    (hload : exec i s = .next ((s.writeCrc r).respond Response.plainOk)) (d : List Byte) :
    ∃ u, runInstrs [i, .crcBuf d, .crcRead] s = some (u, [{ status := .ok }, { status := .ok },
        { status := .ok, crcValue := crc16Update s.cfg r d }]) ∧
      u.crcReg = crc16Update s.cfg r d :=
  ⟨_, runInstrs_cons hload rfl (runInstrs_cons rfl rfl (runInstrs_cons rfl rfl rfl)), rfl⟩

/-! ## The messages of a byte sequence -/

/-- The two states hold one parser: the same parameters, parser state and buffer. -/
def SameParser (s t : State) : Prop := s.cfg = t.cfg ∧ s.pstate = t.pstate ∧ s.buf = t.buf

variable {s t : State}

theorem feedByte_sameParser (h : SameParser s t) (b : Byte) :
    SameParser (feedByte s b).1 (feedByte t b).1 ∧ (feedByte s b).2 = (feedByte t b).2 := by
  obtain ⟨hcfg, hp, hbuf⟩ := h
  cases hs : s.pstate with
  | idle =>
    have ht : t.pstate = .idle := hp ▸ hs
    rw [feedByte_idle hs, feedByte_idle ht]
    refine ⟨?_, rfl⟩
    dsimp only
    split
    · exact ⟨hcfg, rfl, congrArg (· ++ [b]) hbuf⟩
    · exact ⟨hcfg, hp, hbuf⟩
  | readingHeader =>
    have ht : t.pstate = .readingHeader := hp ▸ hs
    rw [feedByte_header hs, feedByte_header ht]
    refine ⟨?_, rfl⟩
    dsimp only
    split_ifs
    · exact ⟨hcfg, rfl, congrArg (· ++ [b]) hbuf⟩
    · exact ⟨hcfg, hp, hbuf⟩
    · exact ⟨hcfg, rfl, rfl⟩
  | readingLength =>
    rw [feedByte_length hs, feedByte_length (hp ▸ hs), ← hbuf]
    exact ⟨⟨hcfg, rfl, rfl⟩, rfl⟩
  | readingPayload =>
    rw [feedByte_payload hs, feedByte_payload (hp ▸ hs), ← hbuf]
    exact ⟨⟨hcfg, rfl, rfl⟩, rfl⟩
  | readingCrc =>
    have ht : t.pstate = .readingCrc := hp ▸ hs
    by_cases hn : s.buf.length + 1 = 8 + rxLen (s.buf ++ [b])
    · by_cases hc : crc16 s.cfg (crcCovered (s.buf ++ [b])) = receivedCrc (s.buf ++ [b])
      · rw [feedByte_crc_good hs hn hc,
          feedByte_crc_good ht (hbuf ▸ hn) (hbuf ▸ hcfg ▸ hc), ← hbuf]
        exact ⟨⟨hcfg, rfl, rfl⟩, rfl⟩
      · rw [feedByte_crc_bad hs hn hc, feedByte_crc_bad ht (hbuf ▸ hn) (hbuf ▸ hcfg ▸ hc)]
        exact ⟨⟨hcfg, rfl, rfl⟩, rfl⟩
    · rw [feedByte_crc_more hs hn, feedByte_crc_more ht (hbuf ▸ hn), ← hbuf]
      exact ⟨⟨hcfg, hp, rfl⟩, rfl⟩

theorem feed_sameParser (h : SameParser s t) (d : List Byte) : (feed s d).2 = (feed t d).2 := by
  induction d generalizing s t with
  | nil => rfl
  | cons b d ih =>
    obtain ⟨hnext, hmsg⟩ := feedByte_sameParser h b
    simp only [feed, hmsg, ih hnext]

/-- PRS_RESET then PRS_BUF: the messages are those of a block fresh from reset with the same
parameters. -/
theorem run_parse (d : List Byte) (s : State) : ∃ u,
    runInstrs [.prsReset, .prsBuf d] s = some (u, [{ status := .ok },
      { status := .ok, msgs := (feed (State.powerOn s.cfg []) d).2 }]) := by
  have hsame : SameParser (((s.writePState .idle).bufClear.clearMsgValid.respond
      Response.plainOk).clearMsgValid) (State.powerOn s.cfg []) := ⟨rfl, rfl, rfl⟩
  rw [← feed_sameParser hsame d]
  exact ⟨_, runInstrs_cons (exec_prsReset s) rfl (runInstrs_cons (exec_prsBuf d _) rfl rfl)⟩

/-- Settles O53: `run_crc` from either loading command, with the table-driven function equal to the
other, and `run_parse`. -/
theorem pseudoInstructionsRun : Obligations.PseudoInstructionsRun := by
  refine ⟨fun d s => ?_, fun r d s => ?_, fun d s => ?_, fun q => ?_, by decide⟩
  · obtain ⟨u, hrun, hcrc⟩ := run_crc (i := .crcInit) (s := s) rfl d
    exact ⟨_, u, rfl, rfl, crc16Fast_eq_crc16 s.cfg d ▸ hrun, hcrc⟩
  · obtain ⟨u, hrun, hcrc⟩ := run_crc (i := .crcLoad r) (s := s) rfl d
    exact ⟨_, u, by rw [expand, halfOperand_toNat]; rfl, hrun, hcrc⟩
  · obtain ⟨u, hrun⟩ := run_parse d s
    exact ⟨_, u, _, rfl, hrun, fun s' hcfg => hcfg ▸ run_parse d s'⟩
  · rw [expand, byteOperand_toNat]
    rfl

end Sys2Proof.Machine
end

section
/-! The rule of a command at the port, once for a format of R49: with the command's opcode a word is
legal when the fields its format marks 0 are zero and the data port is as it allows. -/

namespace Sys2Proof

theorem word_eq_packWord {w : Word} {opc a : Byte} {imm : Half} (hopc : fieldOpc w = opc) :
    w = packWord opc a imm ↔ fieldA w = a ∧ fieldImm w = imm := by
  constructor
  · rintro rfl
    exact ⟨fieldA_packWord _ _ _, fieldImm_packWord _ _ _⟩
  · rintro ⟨rfl, rfl⟩
    rw [← hopc, packWord_fields]

end Sys2Proof

namespace Sys2Proof.Machine

variable {opc : Byte} {effect : Command → State → State → Prop}

theorem be16_eq_zero {hi lo : Byte} : be16 hi lo = 0 ↔ hi = 0 ∧ lo = 0 := by
  constructor
  · intro h
    exact ⟨(hi8_be16 hi lo).symm.trans (congrArg hi8 h),
      (lo8_be16 hi lo).symm.trans (congrArg lo8 h)⟩
  · rintro ⟨rfl, rfl⟩
    rfl

/-- The bits that format F8 marks 0 are the field `A` and the high byte of `IMM`. -/
theorem extractLsb'_eq_be16 (w : Word) : w.extractLsb' 8 16 = be16 (fieldA w) (fieldImmHi w) :=
  (BitVec.extractLsb'_append_extractLsb'_eq_extractLsb' (len₁ := 8) (len₂ := 8) rfl).symm

/-- A command at the port obeys its rule if, with its opcode, decoding answers it exactly on the
legal words and it has the given effect. -/
theorem portRule_of_decode {legal : Command → Prop} {i : Command → Instr}
    (hdec : ∀ c, fieldOpc c.word = opc → ∀ j, decode c = .ok j ↔ legal c ∧ i c = j)
    (hexec : ∀ c s, ∃ t, exec (i c) s = .next t ∧ effect c s t) : PortRule opc legal effect := by
  intro s c rest hin hopc
  constructor
  · intro hlegal
    obtain ⟨t, ht, heffect⟩ := hexec c (s.setInputs rest)
    exact ⟨t, (step_legal hin ((hdec c hopc _).mpr ⟨hlegal, rfl⟩)).trans ht, heffect⟩
  · intro hillegal
    cases hd : decode c with
    | ok j => exact absurd ((hdec c hopc j).mp hd).1 hillegal
    | error e => exact step_illegal hin hd

theorem portRule_formatF0 {i : Instr}
    (hdec : ∀ c, fieldOpc c.word = opc → decode c = formatF0 c i)
    (hexec : ∀ c s, ∃ t, exec i s = .next t ∧ effect c s t) :
    PortRule opc (fun c => c.word = packWord opc 0 0 ∧ c.data = []) effect := by
  refine portRule_of_decode (i := fun _ => i) (fun c hopc j => ?_) hexec
  rw [hdec c hopc, formatF0_eq_ok, word_eq_packWord hopc, and_assoc, and_assoc]

theorem portRule_formatF16 {mk : Half → Instr}
    (hdec : ∀ c, fieldOpc c.word = opc → decode c = formatF16 c mk)
    (hexec : ∀ c s, ∃ t, exec (mk (fieldImm c.word)) s = .next t ∧ effect c s t) :
    PortRule opc (fun c => c.word.extractLsb' 16 8 = 0 ∧ c.data = []) effect := by
  refine portRule_of_decode (fun c hopc j => ?_) hexec
  rw [hdec c hopc, formatF16_eq_ok, fieldA, and_assoc]

theorem portRule_formatF8 {mk : Byte → Instr}
    (hdec : ∀ c, fieldOpc c.word = opc → decode c = formatF8 c mk)
    (hexec : ∀ c s, ∃ t, exec (mk (fieldImmLo c.word)) s = .next t ∧ effect c s t) :
    PortRule opc (fun c => c.word.extractLsb' 8 16 = 0 ∧ c.data = []) effect := by
  refine portRule_of_decode (fun c hopc j => ?_) hexec
  rw [hdec c hopc, formatF8_eq_ok, extractLsb'_eq_be16, be16_eq_zero, and_assoc, and_assoc]

theorem portRule_formatFD {mk : List Byte → Instr}
    (hdec : ∀ c, fieldOpc c.word = opc → decode c = formatFD c mk)
    (hexec : ∀ c s, ∃ t, exec (mk c.data) s = .next t ∧ effect c s t) :
    PortRule opc (fun c => c.word = packWord opc 0 0) effect := by
  refine portRule_of_decode (fun c hopc j => ?_) hexec
  rw [hdec c hopc, formatFD_eq_ok, word_eq_packWord hopc, and_assoc]

end Sys2Proof.Machine
end

section
/-! The CRC function (R57 to R63): updates compose, a changed byte is never lost with an odd
polynomial, and the two bit orders are mirror images. -/

namespace Sys2Proof.Machine

/-! ## Updates over sequences -/

theorem crc16Update_append (cfg : Config) (r : Half) (a b : List Byte) :
    crc16Update cfg r (a ++ b) = crc16Update cfg (crc16Update cfg r a) b :=
  List.foldl_append

theorem crc16_append (cfg : Config) (a b : List Byte) :
    crc16 cfg (a ++ b) = crc16Update cfg (crc16 cfg a) b :=
  crc16Update_append cfg crcInitValue a b

/-- Settles O8: an update is a fold over the bytes. -/
theorem crcStreamingComposes : Obligations.CrcStreamingComposes :=
  ⟨fun cfg r a b => (crc16Update_append cfg r a b).symm, crc16_append, fun _ _ => rfl, fun _ => rfl⟩

/-- Settles O6: each table-driven step is a bit-by-bit step, and the 256 entries of the default
table are computed. -/
theorem tableFormEqualsBitForm : Obligations.TableFormEqualsBitForm :=
  ⟨crcStepFast_eq_crcStep, crc16Fast_eq_crc16, by decide +kernel⟩

/-! ## Single-bit errors (R63) -/

/-- With an odd polynomial no byte sequence merges two running values. -/
theorem crc16Update_injective_value (cfg : Config) (hp : cfg.crcPoly.getLsbD 0 = true)
    (d : List Byte) : Function.Injective (crc16Update cfg · d) := by
  induction d with
  | nil => exact fun _ _ h => h
  | cons b d ih => exact ih.comp (crcStep_injective_value cfg hp b)

/-- With an odd polynomial the CRC tells which byte stands at a position. -/
theorem crc16_set_injective (cfg : Config) (hp : cfg.crcPoly.getLsbD 0 = true) {d : List Byte}
    {i : Nat} (hi : i < d.length) : Function.Injective fun x => crc16 cfg (d.set i x) := by
  intro x y h
  simp only [List.set_eq_take_append_cons_drop, if_pos hi, crc16_append] at h
  exact crcStep_injective_byte cfg hp _ (crc16Update_injective_value cfg hp _ h)

theorem xor_bit_ne (b : Byte) {k : Nat} (hk : k < 8) : b ^^^ (1#8 <<< k) ≠ b := by
  intro h
  have hbit := congrArg (·.getLsbD k) h
  simp [hk] at hbit

/-- Settles O9: a byte with one bit inverted is another byte, and `crc16_set_injective`. -/
theorem singleBitErrorsDetected : Obligations.SingleBitErrorsDetected := by
  intro cfg d i k hp hi hk h
  rw [List.getD_eq_getElem _ _ hi] at h
  have hself : crc16 cfg (d.set i d[i]) = crc16 cfg d := by rw [List.set_getElem_self]
  exact xor_bit_ne d[i] hk (crc16_set_injective cfg hp hi (h.trans hself.symm))

/-! ## The two bit orders -/

theorem rev16_xor (x y : Half) : rev16 (x ^^^ y) = rev16 x ^^^ rev16 y := by
  apply BitVec.eq_of_getLsbD_eq
  intro k hk
  simp only [rev16_getLsbD _ _ hk, BitVec.getLsbD_xor]

theorem rev16_shl_one (x : Half) : rev16 (x <<< 1) = rev16 x >>> 1 := by
  apply BitVec.eq_of_getLsbD_eq
  intro k hk
  rw [rev16_getLsbD _ _ hk, BitVec.getLsbD_shiftLeft, BitVec.getLsbD_ushiftRight]
  by_cases hlast : k = 15
  · subst hlast
    simp
  · rw [rev16_getLsbD _ _ (by omega)]
    simp [show ¬ 15 - k < 1 by omega, show 15 - k < 16 by omega,
      show 15 - (1 + k) = 15 - k - 1 by omega, -BitVec.getLsbD_eq_getElem]

/-- A byte in the high half, mirrored, is the mirrored byte in the low half. -/
theorem rev16_zext16_shl (b : Byte) : rev16 (zext16 b <<< 8) = zext16 b.reverse := by
  apply BitVec.eq_of_getLsbD_eq
  intro k hk
  rw [rev16_getLsbD _ _ hk, BitVec.getLsbD_shiftLeft]
  simp only [zext16, BitVec.getLsbD_setWidth, BitVec.getLsbD_reverse, BitVec.getMsbD]
  by_cases hlow : k < 8
  · have hindex : 15 - k - 8 = 8 - 1 - k := by omega
    simp [hlow, hk, hindex, show ¬ 15 - k < 8 by omega, show 15 - k < 16 by omega,
      show 7 - k < 16 by omega]
  · simp [hlow, show 15 - k < 8 by omega]

theorem crcShiftLsb_rev16 (poly x : Half) :
    crcShiftLsb (rev16 poly) (rev16 x) = rev16 (crcShiftMsb poly x) := by
  have hbit : (rev16 x).getLsbD 0 = x.getLsbD 15 := rev16_getLsbD x 0 (by decide)
  simp only [crcShiftLsb, crcShiftMsb, hbit, apply_ite rev16, rev16_xor, rev16_shl_one]

/-- Settles O7: the mirror image carries the value that enters the eight bit steps, and each bit
step, of one bit order to those of the other. -/
theorem reflectedStepMirrorsMsbStep : Obligations.ReflectedStepMirrorsMsbStep := by
  intro poly c b
  have hsteps : Function.Semiconj rev16 (crcShiftMsb poly)^[8] (crcShiftLsb (rev16 poly))^[8] :=
    Function.Semiconj.iterate_right (fun x => (crcShiftLsb_rev16 poly x).symm) 8
  rw [crcStepLsb, crcStepMsb, hsteps, rev16_xor, rev16_zext16_shl]

end Sys2Proof.Machine
end

section
/-! The CRC Engine commands (R64 to R68): each is one response, with `crc_reg` written or read. -/

namespace Sys2Proof.Machine

/-- Settles O1: the meaning of the command, and the port rule of format F0. -/
theorem crcInitWritesInitialValue : Obligations.CrcInitWritesInitialValue := by
  refine ⟨fun _ => rfl, portRule_formatF0 (i := .crcInit) (fun _ hopc => ?_)
    fun _ _ => ⟨_, rfl, rfl⟩, fun s t h => ?_⟩
  · simp [decode, hopc]
  · cases h
    rfl

/-- Settles O2: the meaning of the command, and the port rule of format F16. -/
theorem crcLoadWritesImmediate : Obligations.CrcLoadWritesImmediate := by
  refine ⟨fun _ _ => rfl, portRule_formatF16 (mk := .crcLoad) (fun _ hopc => ?_)
    fun _ _ => ⟨_, rfl, rfl⟩, fun _ => rfl⟩
  simp [decode, hopc]

/-- Settles O3: the meaning of the command, the port rule of format F8, and the three steps
computed. -/
theorem crcByteFoldsOneByte : Obligations.CrcByteFoldsOneByte := by
  refine ⟨fun _ _ => rfl, portRule_formatF8 (mk := .crcByte) (fun _ hopc => ?_)
    fun _ _ => ⟨_, rfl, rfl⟩, by decide, by decide, by decide⟩
  simp [decode, hopc]

/-- CRC_BUF ends in the state that one CRC_BYTE for each byte leaves, with its own response: after
the first CRC_BYTE the rest of the buffer is still to be folded. -/
theorem exec_crcBuf_eq_crcBytes (d : List Byte) (s : State) : ∃ u : State,
    runInstrs (d.map .crcByte) s = some (u, List.replicate d.length { status := .ok }) ∧
      exec (.crcBuf d) s = .next (u.respond { status := .ok }) := by
  induction d generalizing s with
  | nil => exact ⟨s, rfl, rfl⟩
  | cons b d ih =>
    obtain ⟨u, hrun, hbuf⟩ := ih ((s.writeCrc (crcStep s.cfg s.crcReg b)).respond .plainOk)
    exact ⟨u, runInstrs_cons rfl rfl hrun, hbuf⟩

/-- Settles O4: the meaning of the command, the port rule of format FD, and
`exec_crcBuf_eq_crcBytes`. -/
theorem crcBufFoldsEveryByte : Obligations.CrcBufFoldsEveryByte := by
  refine ⟨fun _ _ => rfl, portRule_formatFD (mk := .crcBuf) (fun _ hopc => ?_)
    fun _ _ => ⟨_, rfl, rfl⟩, fun _ => rfl, exec_crcBuf_eq_crcBytes, by decide +kernel⟩
  simp [decode, hopc]

/-- Settles O5: the meaning of the command, and the port rule of format F0. -/
theorem crcReadReturnsRunningValue : Obligations.CrcReadReturnsRunningValue := by
  refine ⟨fun _ => rfl, portRule_formatF0 (i := .crcRead) (fun _ hopc => ?_)
    fun _ _ => ⟨_, rfl, rfl⟩, fun s t h => ?_, rfl⟩
  · simp [decode, hopc]
  · cases h
    rfl

end Sys2Proof.Machine
end

section
/-! What the frames of R69 and R70 hold, and what the parser's readings of a frame (R80) and the
check of R71 give on them. -/

namespace Sys2Proof.Machine

/-! ## A body with its CRC -/

variable (cfg : Config) (pre : List Byte)

@[simp] theorem withCrc_length : (withCrc cfg pre).length = pre.length + 2 :=
  List.length_append

theorem withCrc_take : (withCrc cfg pre).take pre.length = pre :=
  List.take_left' rfl

theorem withCrc_crcHi : (withCrc cfg pre)[pre.length]? = some (hi8 (crc16 cfg pre)) := by
  simp [withCrc]

theorem withCrc_crcLo : (withCrc cfg pre)[pre.length + 1]? = some (lo8 (crc16 cfg pre)) := by
  simp [withCrc]

theorem be16_crcField_withCrc :
    be16 ((withCrc cfg pre).getD pre.length 0) ((withCrc cfg pre).getD (pre.length + 1) 0) =
      crc16 cfg pre := by
  rw [List.getD_eq_getElem?_getD, List.getD_eq_getElem?_getD, withCrc_crcHi, withCrc_crcLo]
  exact be16_hi8_lo8 _

/-- The check of R71 as one condition. -/
theorem validFrame_iff (d : List Byte) : validFrame cfg d = true ↔ 8 ≤ d.length ∧
    crc16 cfg (d.take (d.length - 2)) =
      be16 (d.getD (d.length - 2) 0) (d.getD (d.length - 1) 0) := by
  unfold validFrame minFrame
  split
  · next hshort => simp [hshort]
  · next hlong => rw [beq_iff_eq, and_iff_right (Nat.le_of_not_lt hlong)]

/-- R71 looks at nothing but the length and the trailing CRC. -/
theorem validFrame_withCrc {pre : List Byte} (h : 6 ≤ pre.length) :
    validFrame cfg (withCrc cfg pre) = true := by
  have hlast : (withCrc cfg pre).length - 1 = pre.length + 1 := by simp
  have hbody : (withCrc cfg pre).length - 2 = pre.length := by simp
  rw [validFrame_iff, hlast, hbody, withCrc_take, be16_crcField_withCrc]
  exact ⟨by rw [withCrc_length]; omega, rfl⟩

/-! ## A built frame -/

variable (t q : Byte) {p : List Byte}

@[simp] theorem frameBody_length (p : List Byte) : (frameBody t q p).length = 6 + p.length := by
  rw [frameBody, List.length_append]
  rfl

/-- The offset of the low byte of the CRC field (R70). -/
theorem frameBody_length_succ (p : List Byte) : (frameBody t q p).length + 1 = 7 + p.length := by
  rw [frameBody_length, Nat.add_right_comm]

theorem buildFrame_length (p : List Byte) : (buildFrame cfg t q p).length = 8 + p.length := by
  rw [buildFrame, withCrc_length, frameBody_length, Nat.add_right_comm]

/-- The header and the length field of a built frame, and what they announce. -/
theorem buildFrame_eq_header_append (p : List Byte) : buildFrame cfg t q p =
    [0xAA#8, 0x55#8, hi8 (BitVec.ofNat 16 p.length), lo8 (BitVec.ofNat 16 p.length)] ++
      (t :: q :: p ++
        [hi8 (crc16 cfg (frameBody t q p)), lo8 (crc16 cfg (frameBody t q p))]) := rfl

/-- The length field counts the payload alone (R70). -/
theorem lengthField_toNat (hp : p.length ≤ 65535) :
    (hi8 (BitVec.ofNat 16 p.length)).toNat * 256 + (lo8 (BitVec.ofNat 16 p.length)).toNat =
      p.length := by
  rw [← be16_toNat, be16_hi8_lo8]
  exact toNat_ofNat_of_fits (Nat.lt_succ_of_le hp)

theorem rxLen_buildFrame (hp : p.length ≤ 65535) : rxLen (buildFrame cfg t q p) = p.length := by
  rw [buildFrame_eq_header_append, rxLen_header, lengthField_toNat hp]

/-- The CRC of a built frame covers its body. -/
theorem crcCovered_buildFrame (hp : p.length ≤ 65535) :
    crcCovered (buildFrame cfg t q p) = frameBody t q p := by
  rw [crcCovered, rxLen_buildFrame cfg t q hp, ← frameBody_length t q p]
  exact withCrc_take cfg _

theorem receivedCrc_buildFrame (hp : p.length ≤ 65535) :
    receivedCrc (buildFrame cfg t q p) = crc16 cfg (frameBody t q p) := by
  rw [receivedCrc, rxLen_buildFrame cfg t q hp, ← frameBody_length t q p,
    ← frameBody_length_succ t q p]
  exact be16_crcField_withCrc cfg _

theorem messageOf_buildFrame (hp : p.length ≤ 65535) :
    messageOf (buildFrame cfg t q p) = { type := t, sequence := q, payload := p } := by
  rw [messageOf, crcCovered_buildFrame cfg t q hp]
  rfl

theorem validFrame_buildFrame (p : List Byte) : validFrame cfg (buildFrame cfg t q p) = true :=
  validFrame_withCrc cfg (by rw [frameBody_length]; omega)

/-- Fed between frames or after a false start, a built frame completes with its message. -/
theorem feed_buildFrame {s : State} (hs : ParserInv s)
    (hstate : s.pstate = .idle ∨ s.pstate = .readingHeader) (hp : p.length ≤ 65535) :
    FrameOver (feed s (buildFrame s.cfg t q p)).1 ∧
      (feed s (buildFrame s.cfg t q p)).2 = [{ type := t, sequence := q, payload := p }] ∧
      (feed s (buildFrame s.cfg t q p)).1.errCount = s.errCount ∧
      (feed s (buildFrame s.cfg t q p)).1.msgValid = true := by
  obtain ⟨hover, hgood, -⟩ := feed_whole_frame hs hstate (buildFrame_eq_header_append s.cfg t q p)
    (by rw [lengthField_toNat hp]; simp)
  have hcrc : crc16 s.cfg (crcCovered (buildFrame s.cfg t q p)) =
      receivedCrc (buildFrame s.cfg t q p) := by
    rw [crcCovered_buildFrame s.cfg t q hp, receivedCrc_buildFrame s.cfg t q hp]
  rw [messageOf_buildFrame s.cfg t q hp] at hgood
  exact ⟨hover, hgood hcrc⟩

end Sys2Proof.Machine
end

section
/-! The Frame Codec (R69 to R73): what ENC_BUILD and ENC_VALIDATE answer, and the round trip through
the parser. -/

namespace Sys2Proof.Machine

theorem exec_encValidate (d : List Byte) (s : State) :
    exec (.encValidate d) s =
      .next (s.respond { status := .ok, valid := validFrame s.cfg d }) := rfl

theorem portRule_formatFAD {opc : Byte} {effect : Command → State → State → Prop}
    {mk : Byte → Byte → List Byte → Instr}
    (hdec : ∀ c, fieldOpc c.word = opc → decode c = formatFAD c mk)
    (hexec : ∀ c s, ∃ t,
      exec (mk (fieldA c.word) (fieldImmLo c.word) c.data) s = .next t ∧ effect c s t) :
    PortRule opc (fun c => c.word.extractLsb' 8 8 = 0) effect := by
  refine portRule_of_decode (fun c hopc j => ?_) hexec
  rw [hdec c hopc, formatFAD_eq_ok, fieldImmHi]

/-- PRS_RESET leaves the parser between frames (R84). -/
theorem exec_prsReset_frameOver (s : State) : ∃ v, exec .prsReset s = .next v ∧
    v.resultPort = some { status := .ok } ∧ FrameOver v ∧ v.cfg = s.cfg ∧
    v.errCount = s.errCount :=
  ⟨_, exec_prsReset s, rfl, ⟨rfl, rfl⟩, rfl, rfl⟩

/-- PRS_BUF of a built frame returns its message and leaves the parser between frames again. -/
theorem exec_prsBuf_buildFrame (t q : Byte) {p : List Byte} {s : State} (hs : ParserInv s)
    (hstate : s.pstate = .idle ∨ s.pstate = .readingHeader) (hp : p.length ≤ 65535) :
    ∃ u, exec (.prsBuf (buildFrame s.cfg t q p)) s = .next u ∧
      u.resultPort = some
        { status := .ok, msgs := [{ type := t, sequence := q, payload := p }] } ∧
      FrameOver u ∧ u.errCount = s.errCount := by
  obtain ⟨hover, hmsgs, herr, -⟩ := feed_buildFrame (s := s.clearMsgValid) t q hs hstate hp
  exact ⟨_, exec_prsBuf _ s, by rw [← hmsgs]; rfl, hover, herr⟩

/-- Settles O13: PRS_RESET leaves the parser where `exec_prsBuf_buildFrame` applies. -/
theorem buildThenParseRoundTrip : Obligations.BuildThenParseRoundTrip := by
  intro t q p s hp
  obtain ⟨v, hreset, hvport, hv, hcfg, hverr⟩ := exec_prsReset_frameOver s
  obtain ⟨u, hparse, huport, ⟨hidle, hempty⟩, huerr⟩ :=
    exec_prsBuf_buildFrame t q (parserInv_of_frameOver hv) (.inl hv.1) hp
  rw [hcfg] at hparse
  refine ⟨buildFrame s.cfg t q p, u, exec_encBuild_fits t q s (Nat.not_lt_of_le hp), rfl,
    runInstrs_cons hreset hvport (runInstrs_cons hparse huport rfl), hidle, hempty,
    huerr.trans hverr, ?_⟩
  rw [exec_encValidate, validFrame_buildFrame]
  rfl

/-- Settles O10: the two answers of ENC_BUILD, the port rule of format FAD, and the Ping frame
computed. -/
theorem encBuildReturnsFrame : Obligations.EncBuildReturnsFrame := by
  refine ⟨fun t q d s hd => ⟨frameBody t q d, buildFrame s.cfg t q d, rfl, rfl,
      (buildFrame_length s.cfg t q d).trans (Nat.add_comm _ _),
      exec_encBuild_fits t q s (Nat.not_lt_of_le hd)⟩,
    fun t q _ s hd => exec_encBuild_long t q s hd,
    portRule_formatFAD (mk := .encBuild) (fun _ hopc => by simp [decode, hopc]) fun c s => ?_,
    fun s hcfg => ?_⟩
  · obtain ⟨u, r, he⟩ :=
      exec_responds (.encBuild (fieldA c.word) (fieldImmLo c.word) c.data) s
    exact ⟨_, he, he⟩
  · have hping : buildFrame s.cfg 0x01 0x01 [] =
        [0xAA, 0x55, 0x00, 0x00, 0x01, 0x01, 0x7C, 0x4F] := by
      rw [hcfg]
      decide +kernel
    rw [exec_encBuild_fits 0x01 0x01 s (by decide), hping]
    rfl

/-- Settles O11: a built frame is a known header and body, closed by the CRC of that body. -/
theorem builtFrameLayout : Obligations.BuiltFrameLayout := by
  rintro cfg t q p _ hp rfl
  have hbody : (buildFrame cfg t q p).take (6 + p.length) = frameBody t q p := by
    rw [← frameBody_length t q p]
    exact withCrc_take cfg _
  rw [hbody]
  refine ⟨buildFrame_length cfg t q p, rfl, rfl, ⟨_, _, rfl, rfl, lengthField_toNat hp⟩, rfl, rfl,
    fun k hk => ?_, ?_, ?_⟩
  · have hin : 6 + k < (frameBody t q p).length := by rw [frameBody_length]; omega
    rw [buildFrame, withCrc, List.getElem?_append_left hin, Nat.add_comm]
    rfl
  · rw [← frameBody_length t q p]
    exact withCrc_crcHi cfg _
  · rw [← frameBody_length_succ t q p]
    exact withCrc_crcLo cfg _

/-- Settles O12: `validFrame_iff`, the port rule of format FD, `validFrame_withCrc`, and the two
examples computed. -/
theorem encValidateChecksTheCrc : Obligations.EncValidateChecksTheCrc := by
  refine ⟨fun d s => ?_,
    portRule_formatFD (mk := .encValidate) (fun _ hopc => by simp [decode, hopc])
      fun _ _ => ⟨_, rfl, rfl⟩,
    fun pre s hpre => ?_, fun s hcfg => ?_⟩
  · simp only [← validFrame_iff, Bool.decide_eq_true]
    rfl
  · rw [← withCrc, exec_encValidate, validFrame_withCrc s.cfg hpre]
    rfl
  · have hgood : validFrame s.cfg [0xAA, 0x55, 0x00, 0x00, 0x01, 0x01, 0x7C, 0x4F] = true := by
      rw [hcfg]
      decide +kernel
    have hbad : validFrame s.cfg [0xAA, 0x55, 0x00, 0x00, 0x01, 0x01, 0x7C, 0x4E] = false := by
      rw [hcfg]
      decide +kernel
    rw [exec_encValidate, exec_encValidate, hgood, hbad]
    exact ⟨rfl, rfl⟩

end Sys2Proof.Machine
end

section
/-! PRS_BYTE by parser state (R76 to R81), the transition table (R86), and what `done` says
(R75). -/

namespace Sys2Proof.Machine

variable {s u : State} {b : Byte}

/-! ## The buffer in each parser state -/

theorem buf_of_idle (hs : ParserInv s) (hp : s.pstate = .idle) : s.buf = [] :=
  List.length_eq_zero_iff.mp (hs.1.mp hp)

theorem buf_of_readingHeader (hs : ParserInv s) (hp : s.pstate = .readingHeader) :
    s.buf = [0xAA#8] := by
  obtain ⟨-, hheader, -⟩ := hs
  exact hheader.mp hp

theorem buf_length_of_readingLength (hs : ParserInv s) (hp : s.pstate = .readingLength) :
    s.buf.length = 2 ∨ s.buf.length = 3 := by
  obtain ⟨-, -, hlength, -⟩ := hs
  obtain ⟨hlen, -⟩ := hlength.mp hp
  exact hlen

theorem buf_length_of_readingPayload (hs : ParserInv s) (hp : s.pstate = .readingPayload) :
    4 ≤ s.buf.length ∧ s.buf.length < 6 + rxLen s.buf := by
  obtain ⟨-, -, -, hpayload, -⟩ := hs
  obtain ⟨hlen, -, hlt⟩ := hpayload.mp hp
  exact ⟨hlen, hlt⟩

theorem buf_length_of_readingCrc (hs : ParserInv s) (hp : s.pstate = .readingCrc) :
    4 ≤ s.buf.length ∧ s.buf.length < 8 + rxLen s.buf := by
  obtain ⟨-, -, -, -, hcrc⟩ := hs
  obtain ⟨hlen, -, -, hlt⟩ := hcrc.mp hp
  exact ⟨hlen, hlt⟩

/-- The byte that completes the length field is its low byte (R78). -/
theorem rxLen_append_third {l : List Byte} (h : l.length = 3) (b : Byte) :
    rxLen (l ++ [b]) = (l.getD 2 0).toNat * 256 + b.toNat := by
  match l, h with
  | [_, _, hi], _ => exact be16_toNat hi b

/-! ## PRS_BYTE, one parser state at a time -/

theorem exec_prsByte_of_feedByte {m : Option Message} (h : feedByte s b = (u, m)) :
    exec (.prsByte b) s = .next (u.respond { status := .ok, done := m.isSome, msg := m }) := by
  rw [exec_prsByte, h]

/-- Settles O14: the byte step in Idle, where the buffer is empty. -/
theorem idleScansForHeader : Obligations.IdleScansForHeader := by
  intro s b hs hp
  refine ⟨_, exec_prsByte_of_feedByte (feedByte_idle hp), ?_⟩
  rw [buf_of_idle hs.1 hp]
  split
  · next hb => subst hb; exact agrees_refl _
  · exact agrees_refl _

/-- Settles O15: the byte step in ReadingHeader, where the buffer is the one byte 0xAA. -/
theorem readingHeaderHandlesFalseStarts : Obligations.ReadingHeaderHandlesFalseStarts := by
  intro s b hs hp
  refine ⟨_, exec_prsByte_of_feedByte (feedByte_header hp), ?_⟩
  have hbuf := buf_of_readingHeader hs.1 hp
  split_ifs with h55 hAA
  · subst h55; rw [hbuf]; exact agrees_refl _
  · rw [← hbuf, ← hp]; exact agrees_refl _
  · exact agrees_refl _

/-- Settles O16: the byte step in ReadingLength, and the length its second byte completes. -/
theorem readingLengthTakesTwoBytes : Obligations.ReadingLengthTakesTwoBytes := by
  intro s b _ hp
  exact ⟨_, exec_prsByte_of_feedByte (feedByte_length hp), agrees_refl _,
    fun h3 => rxLen_append_third h3 b⟩

/-- Settles O17: the byte step in ReadingPayload, where the length field is complete. -/
theorem readingPayloadTakesEveryByte : Obligations.ReadingPayloadTakesEveryByte := by
  intro s b hs hp
  have hL := rxLen_append (buf_length_of_readingPayload hs.1 hp).1 [b]
  refine ⟨_, exec_prsByte_of_feedByte (feedByte_payload hp), ?_, hL⟩
  rw [hL]
  exact agrees_refl _

/-- The payload of R80 as its offset and length. -/
theorem messageOf_eq (f : List Byte) : messageOf f =
    { type := f.getD 4 0, sequence := f.getD 5 0, payload := (f.drop 6).take (rxLen f) } := by
  rw [messageOf, crcCovered, List.drop_take, Nat.add_sub_cancel_left]

/-- Settles O18: the three byte steps in ReadingCrc, which exclude each other. -/
theorem readingCrcEndsTheFrame : Obligations.ReadingCrcEndsTheFrame := by
  rintro s b l f hs hp hl rfl
  have hL : rxLen (s.buf ++ [b]) = l := by
    rw [hl, rxLen_append (buf_length_of_readingCrc hs.1 hp).1]
  have hlen : (s.buf ++ [b]).length = s.buf.length + 1 := List.length_append
  refine ⟨_, exec_prsByte b s, fun hmore => ?_, fun hend hgood => ?_, fun hend hbad => ?_⟩
  · rw [feedByte_crc_more hp (by omega)]
    exact agrees_refl _
  · rw [feedByte_crc_good hp (by omega) (by rwa [crcCovered, receivedCrc, hL]), messageOf_eq, hL]
    rfl
  · rw [feedByte_crc_bad hp (by omega) (by rwa [crcCovered, receivedCrc, hL])]
    exact agrees_refl _

/-! ## The transition table -/

/-- The last byte of a frame is the low byte of its CRC field. -/
theorem receivedCrc_append (hn : s.buf.length + 1 = 8 + rxLen (s.buf ++ [b])) :
    receivedCrc (s.buf ++ [b]) = be16 ((s.buf ++ [b]).getD (6 + rxLen (s.buf ++ [b])) 0) b := by
  have hlast : 7 + rxLen (s.buf ++ [b]) = s.buf.length := by omega
  have hlow : (s.buf ++ [b]).getD s.buf.length 0 = b := by simp
  rw [receivedCrc, hlast, hlow]

/-- Settles O19: the rows of each parser state, told apart by the byte or by the buffer's length. -/
theorem transitionTable : Obligations.TransitionTable := by
  rintro s b ⟨hs, -⟩
  refine ⟨_, _, exec_prsByte b s, rfl, rfl, rfl, ?_⟩
  rintro n l g rfl rfl hg
  cases hp : s.pstate with
  | idle =>
    have hbuf := buf_of_idle hs hp
    rw [feedByte_idle hp]
    by_cases hb : b = 0xAA#8 <;> simp [hb, hbuf, hp]
  | readingHeader =>
    have hbuf := buf_of_readingHeader hs hp
    rw [feedByte_header hp]
    by_cases h55 : b = 0x55#8
    · simp [h55, hbuf]
    · by_cases hAA : b = 0xAA#8 <;> simp [h55, hAA, hbuf, hp]
  | readingLength =>
    rw [feedByte_length hp]
    rcases buf_length_of_readingLength hs hp with h2 | h3
    · simp [h2]
    · simp [h3]
  | readingPayload =>
    obtain ⟨hlen, hlt⟩ := buf_length_of_readingPayload hs hp
    have hL := rxLen_append hlen [b]
    rw [feedByte_payload hp]
    by_cases hn : s.buf.length + 1 = 6 + rxLen (s.buf ++ [b])
    · simp [hn]
    · have : s.buf.length + 1 < 6 + rxLen (s.buf ++ [b]) := by omega
      simp [hn, this]
  | readingCrc =>
    obtain ⟨hlen, hlt⟩ := buf_length_of_readingCrc hs hp
    have hL := rxLen_append hlen [b]
    by_cases hn : s.buf.length + 1 = 8 + rxLen (s.buf ++ [b])
    · rw [← receivedCrc_append hn] at hg
      by_cases hc : g
      · rw [feedByte_crc_good hp hn (hg.mp hc)]; simp [hn, hc]
      · rw [feedByte_crc_bad hp hn (fun h => hc (hg.mpr h))]; simp [hn, hc]
    · have : s.buf.length + 1 < 8 + rxLen (s.buf ++ [b]) := by omega
      rw [feedByte_crc_more hp hn]; simp [this, hp]

/-! ## `done` and `msg_valid` -/

/-- The message in the message registers, when they hold one (R26). -/
def State.message (s : State) : Option Message :=
  if s.msgValid then some { type := s.msgType, sequence := s.msgSeq, payload := s.msgPayload }
  else none

theorem message_isSome (s : State) : s.message.isSome = s.msgValid := by
  cases h : s.msgValid <;> simp [State.message, h]

theorem message_of_msgValid (h : s.msgValid = true) :
    s.message = some { type := s.msgType, sequence := s.msgSeq, payload := s.msgPayload } :=
  if_pos h

/-- A byte answers the message it leaves in the message registers (R75, R80). -/
theorem feedByte_message (s : State) (b : Byte) : (feedByte s b).2 = (feedByte s b).1.message := by
  obtain ⟨-, p, l, -, he⟩ | ⟨-, m, -, he⟩ | ⟨-, he⟩ := feedByte_outcome s b
  · rw [he]; rfl
  · rw [he]; rfl
  · rw [he]; rfl

theorem done_eq_msgValid (s : State) (b : Byte) :
    (feedByte s b).2.isSome = (feedByte s b).1.msgValid := by
  rw [feedByte_message, message_isSome]

/-- Settles O20: the frame of a byte and `feedByte_message`, the port rule of format F8, and the
Ping frame computed. -/
theorem prsByteCompletes : Obligations.PrsByteCompletes := by
  refine ⟨fun b s => ?_,
    portRule_formatF8 (mk := .prsByte) (fun _ hopc => by simp [decode, hopc])
      fun _ _ => ⟨_, exec_prsByte _ _, exec_prsByte _ _⟩, ?_⟩
  · obtain ⟨hcfg, hcrc, hin, -⟩ := feedByte_frame s b
    exact ⟨_, _, exec_prsByte b s, rfl, rfl, done_eq_msgValid s b, hcfg, hcrc, hin,
      feedByte_message s b⟩
  · have hrun : (runInstrs ([0xAA, 0x55, 0x00, 0x00, 0x01, 0x01, 0x7C, 0x4F].map .prsByte)
        State.reset).map (·.2) = some (List.replicate 7 { status := .ok } ++
          [{ status := .ok, done := true
             msg := some { type := 0x01, sequence := 0x01, payload := [] } }]) := by
      decide +kernel
    obtain ⟨⟨u, rs⟩, hu, rfl⟩ := Option.map_eq_some_iff.mp hrun
    exact ⟨u, hu⟩

end Sys2Proof.Machine
end

section
/-! Feeding a byte sequence: its last byte, the commands that feed it in pieces, and the frames and
the garbage in it (R82 to R88). -/

namespace Sys2Proof.Machine

variable {s u : State} {b : Byte} {d : List Byte}

theorem agrees_of_eq (h : s = u) : Agrees s u := h ▸ agrees_refl s

/-- The last byte of a sequence on its own. -/
theorem feed_concat (s : State) (d : List Byte) (b : Byte) :
    feed s (d ++ [b]) =
      ((feedByte (feed s d).1 b).1, (feed s d).2 ++ (feedByte (feed s d).1 b).2.toList) := by
  rw [feed_append]
  simp only [feed, List.append_nil]

/-- Clearing `msg_valid` first makes no difference to the messages. -/
theorem feed_clearMsgValid_msgs (s : State) (d : List Byte) :
    (feed s.clearMsgValid d).2 = (feed s d).2 := by
  cases d <;> rfl

/-- Clearing `msg_valid` first makes no difference to the state reached, once it is cleared
there. -/
theorem clearMsgValid_feed_clearMsgValid (s : State) (d : List Byte) :
    (feed s.clearMsgValid d).1.clearMsgValid = (feed s d).1.clearMsgValid := by
  cases d <;> rfl

theorem feed_clearMsgValid (s : State) (hd : d ≠ []) : feed s.clearMsgValid d = feed s d := by
  obtain ⟨b, d, rfl⟩ := List.exists_cons_of_ne_nil hd
  exact feed_clearMsgValid_cons s b d

/-- The message registers, when they hold a message, hold the last of those fed (R83). -/
theorem feed_getLast? (hs : s.msgValid = false) (d : List Byte)
    (hv : (feed s d).1.msgValid = true) :
    (feed s d).2.getLast? = (feed s d).1.message := by
  rcases List.eq_nil_or_concat d with rfl | ⟨d, b, rfl⟩
  · exact absurd hv (by simp [hs])
  · rw [List.concat_eq_append, feed_concat] at hv ⊢
    dsimp only at hv ⊢
    rw [feedByte_message, message_of_msgValid hv, Option.toList_some, List.getLast?_concat]

/-- No parser command looks at what the command before it left on the result port. -/
theorem exec_prsBuf_respond (d : List Byte) (s : State) (r : Response) :
    exec (.prsBuf d) (s.respond r) = exec (.prsBuf d) s := by
  have hclear : (s.respond r).clearMsgValid = s.clearMsgValid.respond r := rfl
  rw [exec_prsBuf, exec_prsBuf, hclear, feed_respond]
  rfl

theorem exec_prsByte_respond (b : Byte) (s : State) (r : Response) :
    exec (.prsByte b) (s.respond r) = exec (.prsByte b) s := by
  rw [exec_prsByte, exec_prsByte, feedByte_respond]
  rfl

/-- One PRS_BYTE for each byte reaches the state of feeding them, but for the response on the result
port, and answers the same messages (R85). -/
theorem runInstrs_prsBytes (d : List Byte) (s : State) : ∃ (u : State) (rs : List Response),
    runInstrs (d.map .prsByte) s = some (u, rs) ∧
      rs.flatMap (fun r => r.msg.toList) = (feed s d).2 ∧
      { u with resultPort := none } = { (feed s d).1 with resultPort := none } := by
  induction d generalizing s with
  | nil => exact ⟨s, [], rfl, rfl, rfl⟩
  | cons b d ih =>
    obtain ⟨u, rs, hrun, hmsgs, hu⟩ := ih ((feedByte s b).1.respond
      { status := .ok, done := (feedByte s b).2.isSome, msg := (feedByte s b).2 })
    rw [feed_respond] at hmsgs hu
    exact ⟨u, _, runInstrs_cons (exec_prsByte b s) rfl hrun,
      congrArg ((feedByte s b).2.toList ++ ·) hmsgs, hu⟩

/-! ## Frames inside a sequence -/

/-- A frame that is not over yet: every byte of it is in the buffer (R82). -/
theorem feed_partial_frame (hs : ParserInv s)
    (hp : s.pstate = .idle ∨ s.pstate = .readingHeader) {hi lo : Byte} {y : List Byte}
    (hy : y.length < hi.toNat * 256 + lo.toNat + 4) :
    (feed s ([0xAA#8, 0x55#8, hi, lo] ++ y)).2 = [] ∧
      (feed s ([0xAA#8, 0x55#8, hi, lo] ++ y)).1.errCount = s.errCount ∧
      (feed s ([0xAA#8, 0x55#8, hi, lo] ++ y)).1.buf = [0xAA#8, 0x55#8, hi, lo] ++ y := by
  obtain ⟨hmsgs, hbuf, herr, hinv⟩ := feed_header hs hp hi lo
  have hlen : (feed s [0xAA#8, 0x55#8, hi, lo]).1.buf.length = 4 := by rw [hbuf]; rfl
  have hL : rxLen (feed s [0xAA#8, 0x55#8, hi, lo]).1.buf = hi.toNat * 256 + lo.toNat := by
    rw [hbuf]; exact rxLen_header hi lo []
  obtain ⟨hmsgs', hbuf', herr', -⟩ := feed_inside_frame hinv y hlen.ge (by omega)
  rw [feed_append, hmsgs, hmsgs']
  exact ⟨rfl, herr'.trans herr, hbuf'.trans (by rw [hbuf])⟩

/-- After bytes that leave the parser in Idle or ReadingHeader, a built frame adds its own message
and no mismatch (R87). -/
theorem feed_append_buildFrame (hs : BlockInv s) (g : List Byte) (t q : Byte) {p : List Byte}
    (hp : p.length ≤ 65535)
    (hg : (feed s g).1.pstate = .idle ∨ (feed s g).1.pstate = .readingHeader) :
    FrameOver (feed s (g ++ buildFrame s.cfg t q p)).1 ∧
      (feed s (g ++ buildFrame s.cfg t q p)).2 =
        (feed s g).2 ++ [{ type := t, sequence := q, payload := p }] ∧
      (feed s (g ++ buildFrame s.cfg t q p)).1.errCount = (feed s g).1.errCount ∧
      (feed s (g ++ buildFrame s.cfg t q p)).1.msgValid = true := by
  obtain ⟨hover, hmsgs, herr, hvalid⟩ :=
    feed_buildFrame t q (feed_keeps_blockInv hs g).1 hg hp
  rw [(feed_frame s g).1] at hover hmsgs herr hvalid
  rw [feed_append, hmsgs]
  exact ⟨hover, rfl, herr, hvalid⟩

/-! ## Garbage without a header -/

/-- No header `AA 55` lies ahead: neither among the bytes to come, nor across a 0xAA already
taken. -/
def NoHeaderAhead (s : State) (g : List Byte) : Prop :=
  (s.pstate = .idle ∧ ¬ [0xAA#8, 0x55#8] <:+: g) ∨
  (s.pstate = .readingHeader ∧ ¬ [0xAA#8, 0x55#8] <:+: 0xAA#8 :: g)

theorem not_infix_tail {l g : List Byte} (h : ¬ l <:+: b :: g) : ¬ l <:+: g :=
  fun hl => h (hl.trans (List.suffix_cons b g).isInfix)

/-- A byte before which no header lies completes nothing, and none lies ahead after it (R76,
R77). -/
theorem feedByte_noHeaderAhead {g : List Byte} (h : NoHeaderAhead s (b :: g)) :
    (feedByte s b).2 = none ∧ (feedByte s b).1.errCount = s.errCount ∧
      NoHeaderAhead (feedByte s b).1 g := by
  rcases h with ⟨hp, hg⟩ | ⟨hp, hg⟩
  · rw [feedByte_idle hp]
    by_cases hb : b = 0xAA#8
    · subst hb; exact ⟨rfl, rfl, .inr ⟨rfl, hg⟩⟩
    · rw [if_neg hb]; exact ⟨rfl, rfl, .inl ⟨hp, not_infix_tail hg⟩⟩
  · have h55 : b ≠ 0x55#8 := by
      rintro rfl
      exact hg ⟨[], g, rfl⟩
    rw [feedByte_header hp, if_neg h55]
    by_cases hb : b = 0xAA#8
    · subst hb; exact ⟨rfl, rfl, .inr ⟨hp, not_infix_tail hg⟩⟩
    · rw [if_neg hb]; exact ⟨rfl, rfl, .inl ⟨rfl, not_infix_tail (not_infix_tail hg)⟩⟩

/-- Garbage without a header emits and counts nothing (R87). -/
theorem feed_noHeaderAhead {g : List Byte} (h : NoHeaderAhead s g) :
    (feed s g).2 = [] ∧ (feed s g).1.errCount = s.errCount ∧
      ((feed s g).1.pstate = .idle ∨ (feed s g).1.pstate = .readingHeader) := by
  induction g generalizing s with
  | nil => exact ⟨rfl, rfl, h.imp And.left And.left⟩
  | cons b g ih =>
    obtain ⟨hmsg, herr, hnext⟩ := feedByte_noHeaderAhead h
    obtain ⟨hmsgs, herrs, hstate⟩ := ih hnext
    exact ⟨by simp [feed, hmsg, hmsgs], herrs.trans herr, hstate⟩

/-! ## A corrupted CRC field -/

section
variable (cfg : Config) (t q x y : Byte) {p : List Byte}

/-- A body closed by any two bytes is a header and the bytes its length announces. -/
theorem frameBody_append_eq_header_append (p : List Byte) : frameBody t q p ++ [x, y] =
    [0xAA#8, 0x55#8, hi8 (BitVec.ofNat 16 p.length), lo8 (BitVec.ofNat 16 p.length)] ++
      (t :: q :: p ++ [x, y]) := rfl

theorem rxLen_frameBody_append (hp : p.length ≤ 65535) :
    rxLen (frameBody t q p ++ [x, y]) = p.length := by
  rw [frameBody_append_eq_header_append, rxLen_header, lengthField_toNat hp]

theorem crcCovered_frameBody_append (hp : p.length ≤ 65535) :
    crcCovered (frameBody t q p ++ [x, y]) = frameBody t q p := by
  rw [crcCovered, rxLen_frameBody_append t q x y hp, ← frameBody_length t q p]
  exact List.take_left' rfl

theorem receivedCrc_frameBody_append (hp : p.length ≤ 65535) :
    receivedCrc (frameBody t q p ++ [x, y]) = be16 x y := by
  have hhi : (frameBody t q p ++ [x, y]).getD (6 + p.length) 0 = x := by
    rw [← frameBody_length t q p]; simp
  have hlo : (frameBody t q p ++ [x, y]).getD (7 + p.length) 0 = y := by
    rw [← frameBody_length_succ t q p]; simp
  rw [receivedCrc, rxLen_frameBody_append t q x y hp, hhi, hlo]

/-- The CRC of a body, written big-endian, is the one CRC field that agrees. -/
theorem buildFrame_eq_of_be16_eq (h : be16 x y = crc16 cfg (frameBody t q p)) :
    frameBody t q p ++ [x, y] = buildFrame cfg t q p := by
  rw [buildFrame, withCrc, ← h, hi8_be16, lo8_be16]

end

/-- A frame with a wrong CRC field is one mismatch, and then over (R81). -/
theorem feed_corruptedCrc (hs : ParserInv s)
    (hstate : s.pstate = .idle ∨ s.pstate = .readingHeader) {t q x y : Byte} {p : List Byte}
    (hp : p.length ≤ 65535) (hne : frameBody t q p ++ [x, y] ≠ buildFrame s.cfg t q p) :
    FrameOver (feed s (frameBody t q p ++ [x, y])).1 ∧
      (feed s (frameBody t q p ++ [x, y])).2 = [] ∧
      (feed s (frameBody t q p ++ [x, y])).1.errCount =
        (s.errCount + 1) % 2 ^ s.cfg.errCountWidth := by
  obtain ⟨hover, -, hbad⟩ := feed_whole_frame hs hstate
    (frameBody_append_eq_header_append t q x y p) (by rw [lengthField_toNat hp]; simp)
  rw [crcCovered_frameBody_append t q x y hp, receivedCrc_frameBody_append t q x y hp] at hbad
  exact ⟨hover, hbad fun hcrc => hne (buildFrame_eq_of_be16_eq s.cfg t q x y hcrc.symm)⟩

end Sys2Proof.Machine
end

section
/-! The commands that feed a byte sequence and the one that resets the parser (R82 to R88). -/

namespace Sys2Proof.Machine

variable {s : State}

theorem exec_prsBuf_of_msgs {d : List Byte} {ms : List Message}
    (h : (feed s.clearMsgValid d).2 = ms) :
    exec (.prsBuf d) s =
      .next ((feed s.clearMsgValid d).1.respond { status := .ok, msgs := ms }) := by
  rw [exec_prsBuf, h]

/-- Settles O24: the meaning of the command, and the port rule of format F0. -/
theorem prsResetReturnsToIdle : Obligations.PrsResetReturnsToIdle := by
  exact ⟨exec_prsReset,
    portRule_formatF0 (i := .prsReset) (fun _ hopc => by simp [decode, hopc]) fun _ s =>
      ⟨_, exec_prsReset s, rfl⟩⟩

/-- Settles O21: `feed_whole_frame` for all of the bytes, `feed_partial_frame` for fewer. -/
theorem frameBytesAreNotRescanned : Obligations.FrameBytesAreNotRescanned := by
  intro s hi lo x ⟨hs, _⟩ hp hx
  constructor
  · obtain ⟨⟨hidle, hempty⟩, hgood, hbad⟩ :=
      feed_whole_frame (s := s.clearMsgValid) hs (.inl hp) rfl hx
    refine ⟨_, _, exec_prsBuf _ s, rfl, hidle, hempty, ?_⟩
    by_cases hcrc : crc16 s.cfg (crcCovered ([0xAA#8, 0x55#8, hi, lo] ++ x)) =
        receivedCrc ([0xAA#8, 0x55#8, hi, lo] ++ x)
    · obtain ⟨hmsgs, herr, -⟩ := hgood hcrc
      exact .inl ⟨by rw [hmsgs]; rfl, herr⟩
    · exact .inr (hbad hcrc)
  · rintro y z rfl hz
    have hy : y.length < hi.toNat * 256 + lo.toNat + 4 := by
      rw [← hx, List.length_append]
      exact Nat.lt_add_of_pos_right (List.length_pos_iff.mpr hz)
    obtain ⟨hmsgs, herr, hbuf⟩ := feed_partial_frame (s := s.clearMsgValid) hs (.inl hp) hy
    exact ⟨_, exec_prsBuf_of_msgs hmsgs, rfl, herr, hbuf⟩

theorem buildFrame_ping : buildFrame .default 0x01 0x01 [] =
    [0xAA, 0x55, 0x00, 0x00, 0x01, 0x01, 0x7C, 0x4F] := by decide +kernel

theorem buildFrame_ping2 : buildFrame .default 0x01 0x02 [] =
    [0xAA, 0x55, 0x00, 0x00, 0x01, 0x02, 0x4C, 0x2C] := by decide +kernel

/-- Settles O22: `feed_getLast?` for the message registers, `feed_concat` for the last byte, the
port rule of format FD, and the example as two built frames. -/
theorem prsBufFeedsTheBuffer : Obligations.PrsBufFeedsTheBuffer := by
  refine ⟨fun d s => ?_, fun _ => rfl, fun d b s => ?_,
    portRule_formatFD (mk := .prsBuf) (fun _ hopc => by simp [decode, hopc])
      fun _ _ => ⟨_, exec_prsBuf _ _, exec_prsBuf _ _⟩,
    fun s hcfg hs hp => ?_⟩
  · obtain ⟨hcfg, hcrc, hin, -⟩ := feed_frame s.clearMsgValid d
    exact ⟨_, _, exec_prsBuf d s, rfl, hcfg, hcrc, hin, fun hv =>
      (feed_getLast? rfl d hv).trans (message_of_msgValid hv)⟩
  · have hconcat := feed_concat s.clearMsgValid d b
    refine ⟨_, _, _, _, _, exec_prsBuf d s, rfl,
      (exec_prsByte_respond b _ _).trans (exec_prsByte b _), rfl, exec_prsBuf (d ++ [b]) s,
      ?_, ?_, ?_⟩
    · rw [hconcat]; rfl
    · rw [hconcat]; exact (done_eq_msgValid _ b).symm
    · rw [hconcat]; exact agrees_refl _
  · obtain ⟨⟨hidle, -⟩, hmsgs, -⟩ :=
      feed_buildFrame (s := s.clearMsgValid) 0x01 0x01 (p := []) hs.1 (.inl hp) (by decide)
    obtain ⟨-, hmsgs', -⟩ := feed_append_buildFrame (s := s.clearMsgValid) hs
      (buildFrame s.cfg 0x01 0x01 []) 0x01 0x02 (p := []) (by decide) (.inl hidle)
    rw [State.clearMsgValid_cfg] at hmsgs hmsgs'
    rw [hmsgs, hcfg, buildFrame_ping, buildFrame_ping2] at hmsgs'
    exact ⟨_, exec_prsBuf_of_msgs hmsgs', rfl⟩

/-- Settles O23: feeding is a fold (`feed_append`), which neither the responses in between
(`exec_prsBuf_respond`) nor a `msg_valid` cleared before another byte (`feed_clearMsgValid`)
disturbs. -/
theorem feedEquivalence : Obligations.FeedEquivalence := by
  constructor
  · intro a b s
    have happend := feed_append s.clearMsgValid a b
    refine ⟨_, _, _, _, exec_prsBuf (a ++ b) s, ?_,
      runInstrs_cons (exec_prsBuf a s) rfl
        (runInstrs_cons ((exec_prsBuf_respond b _ _).trans (exec_prsBuf b _)) rfl rfl),
      ?_, fun hb => ?_⟩
    · rw [happend, feed_clearMsgValid_msgs (feed s.clearMsgValid a).1 b]
      rfl
    · rw [happend]
      exact agrees_of_eq (congrArg (fun u : State => { u with resultPort := none })
        (clearMsgValid_feed_clearMsgValid (feed s.clearMsgValid a).1 b).symm)
    · rw [happend, feed_clearMsgValid _ hb]
      exact agrees_refl _
  · intro a s
    obtain ⟨u, rs, hrun, hmsgs, hu⟩ := runInstrs_prsBytes a s
    refine ⟨_, u, rs, _, exec_prsBuf a s, rfl, hrun, ?_, ?_, fun ha => ?_⟩
    · rw [hmsgs, feed_clearMsgValid_msgs]
    · exact agrees_of_eq ((congrArg (fun v : State => { v with resultPort := none })
        (clearMsgValid_feed_clearMsgValid s a)).trans
          (congrArg State.clearMsgValid hu).symm)
    · rw [feed_clearMsgValid s ha]
      exact agrees_of_eq hu.symm

/-- Settles O25: `feed_noHeaderAhead` for the garbage, `feed_append_buildFrame` for the frame. -/
theorem syncRecovery : Obligations.SyncRecovery := by
  refine ⟨fun s g _ hp hg => ?_, fun s g t q p hs _ hlen => ?_, fun s g t q p hs hp hg hlen => ?_⟩
  · obtain ⟨hmsgs, herr, hstate⟩ := feed_noHeaderAhead (s := s.clearMsgValid) (.inl ⟨hp, hg⟩)
    exact ⟨_, exec_prsBuf_of_msgs hmsgs, rfl, hstate, herr⟩
  · refine ⟨_, _, _, _, exec_prsBuf g s, rfl, exec_prsBuf _ s, rfl, fun hstate => ?_⟩
    obtain ⟨⟨hidle, hempty⟩, hmsgs, herr, hvalid⟩ :=
      feed_append_buildFrame (s := s.clearMsgValid) hs g t q hlen hstate
    exact ⟨hmsgs, hidle, hempty, hvalid, herr⟩
  · obtain ⟨hmsgs, herr, hstate⟩ := feed_noHeaderAhead (s := s.clearMsgValid) (.inl ⟨hp, hg⟩)
    obtain ⟨-, hmsgs', herr', -⟩ :=
      feed_append_buildFrame (s := s.clearMsgValid) hs g t q hlen hstate
    rw [hmsgs] at hmsgs'
    exact ⟨_, exec_prsBuf_of_msgs hmsgs', rfl, herr'.trans herr⟩

/-- Settles O26: `feed_corruptedCrc` for the first frame, `feed_append_buildFrame` for the
second. -/
theorem recoveryAfterCorruptedCrc : Obligations.RecoveryAfterCorruptedCrc := by
  intro s t q t2 q2 x y p p2 hs hp hlen hlen2 hne
  obtain ⟨⟨hidle, -⟩, hmsgs, herr⟩ :=
    feed_corruptedCrc (s := s.clearMsgValid) hs.1 (.inl hp) hlen hne
  obtain ⟨-, hmsgs', herr', -⟩ :=
    feed_append_buildFrame (s := s.clearMsgValid) hs _ t2 q2 hlen2 (.inl hidle)
  rw [hmsgs] at hmsgs'
  exact ⟨_, exec_prsBuf_of_msgs hmsgs', rfl, herr'.trans herr⟩

end Sys2Proof.Machine
end

section
/-! REG_READ at its six registers (R89), and the step that runs a decoded command (R90). -/

namespace Sys2Proof.Machine

/-! ## What the status registers show -/

/-- The two fields of PARSER_STATUS do not overlap, so they add up (R30). -/
theorem parserStatus_eq_add (s : State) :
    parserStatus s = BitVec.ofNat 32 ((if s.msgValid then 8 else 0) + s.pstate.code) := by
  unfold parserStatus
  cases s.msgValid <;> cases s.pstate <;> rfl

/-- `rx_len` as a 32-bit word: the length field once it is received, else 0 (R24). -/
theorem ofNat_rxLen (l : List Byte) : BitVec.ofNat 32 (rxLen l) =
    if 4 ≤ l.length then (be16 (l.getD 2 0) (l.getD 3 0)).setWidth 32 else 0 := by
  rw [rxLen_eq, ← be16_toNat]
  split
  · exact BitVec.ofNat_toNat 32 _
  · rfl

theorem exec_regRead (s : State) (k : Fin 6) : exec (.regRead (BitVec.ofNat 8 k.val)) s =
    .next (s.respond { status := .ok, regValue := registerMap s k }) :=
  exec_regRead_some (statusRegister_eq_registerMap s k)

/-! ## At the port -/

theorem portRule_formatFA {opc : Byte} {effect : Command → State → State → Prop}
    {mk : Byte → Instr}
    (hdec : ∀ c, fieldOpc c.word = opc → decode c = formatFA c mk)
    (hexec : ∀ c s, ∃ t, exec (mk (fieldA c.word)) s = .next t ∧ effect c s t) :
    PortRule opc (fun c => c.word.extractLsb' 0 16 = 0 ∧ c.data = []) effect := by
  refine portRule_of_decode (fun c hopc j => ?_) hexec
  rw [hdec c hopc, formatFA_eq_ok, fieldImm, and_assoc]

/-- Settles O28: `exec_regRead` for each of the six registers, `exec_regRead_none` for the other
numbers, and the port rule of format FA. -/
theorem regReadReturnsTheRegister : Obligations.RegReadReturnsTheRegister := by
  refine ⟨fun s => ⟨exec_regRead s 0, ?_, exec_regRead s 2, ?_, exec_regRead s 4,
      exec_regRead s 5⟩,
    fun n s hn => exec_regRead_none (statusRegister_unimplemented s hn),
    portRule_formatFA (mk := .regRead) (fun _ hopc => by simp [decode, hopc]) fun c s => ?_,
    exec_regRead .reset 0, exec_regRead .reset 1⟩
  · rw [← parserStatus_eq_add]
    exact exec_regRead s 1
  · rw [← ofNat_rxLen]
    exact exec_regRead s 3
  · obtain ⟨u, r, he⟩ := exec_responds (.regRead (fieldA c.word)) s
    exact ⟨_, he, he⟩

/-- Settles O49: the steps of a legal command, of an encoding, and of a command that does not
decode. -/
theorem stepRunsTheDecodedCommand : Obligations.StepRunsTheDecodedCommand :=
  ⟨fun _ _ _ _ => step_legal, fun _ _ _ => step_encoded, fun _ _ _ _ => step_illegal⟩

end Sys2Proof.Machine
end

section
/-! How a command or a step ends (R91 to R97): every one completes, one that reports an error writes
nothing but the result port, and a CRC mismatch is no error. -/

namespace Sys2Proof.Machine

variable {s u : State} {b : Byte} {i : Instr}

/-! ## Every step completes -/

/-- Settles O50: the step with an empty input stream. -/
theorem emptyPortKeepsState : Obligations.EmptyPortKeepsState := fun _ => step_empty

/-- Settles O35: a step by the event at the port, a command by `exec_responds`. -/
theorem everyStepCompletes : Obligations.EveryStepCompletes := by
  refine ⟨fun s => ?_, fun i s => ?_⟩
  · match hs : s.inputs with
    | [] => exact ⟨s, step_empty hs⟩
    | .powerOnReset :: rest => exact ⟨_, step_powerOnReset hs⟩
    | .command c :: rest =>
      cases hd : decode c with
      | ok i =>
        obtain ⟨u, r, he⟩ := exec_responds i (s.setInputs rest)
        exact ⟨_, (step_legal hs hd).trans he⟩
      | error e => exact ⟨_, step_illegal hs hd⟩
  · obtain ⟨u, r, he⟩ := exec_responds i s
    exact ⟨_, r, he, rfl⟩

/-! ## The status of a command -/

/-- ENC_BUILD with more payload than a frame holds, the second check of R94. -/
abbrev PayloadTooLong (i : Instr) : Prop :=
  ∃ (t q : Byte) (d : List Byte), i = .encBuild t q d ∧ 65535 < d.length

/-- A register number that is refused names no status register (R89). -/
theorem statusRegister_eq_none_iff (n : Byte) (s : State) :
    statusRegister n s = none ↔ (Instr.regRead n).wf = false := by
  simp only [Instr.wf, decide_eq_false_iff_not, not_lt]
  constructor
  · contrapose!
    intro hn
    have hreg := statusRegister_eq_registerMap s ⟨n.toNat, hn⟩
    rw [BitVec.ofNat_toNat, BitVec.setWidth_eq] at hreg
    simp [hreg]
  · exact statusRegister_unimplemented s

/-- How a command ends (R94): with one of the two errors, which leaves the state as it was, or with
OK. -/
theorem exec_outcome (i : Instr) (s : State) :
    (i.wf = false ∧ ¬ PayloadTooLong i ∧
      exec i s = .next (s.respond (Response.error .illegalCommand))) ∨
    (i.wf = true ∧ PayloadTooLong i ∧
      exec i s = .next (s.respond (Response.error .payloadTooLarge))) ∨
    (i.wf = true ∧ ¬ PayloadTooLong i ∧
      ∃ u r, exec i s = .next (State.respond u r) ∧ r.status = .ok) := by
  cases i with
  | encBuild t q d =>
    by_cases hd : maxPayload < d.length
    · exact .inr (.inl ⟨rfl, ⟨t, q, d, rfl, hd⟩, exec_encBuild_long t q s hd⟩)
    · refine .inr (.inr ⟨rfl, ?_, _, _, exec_encBuild_fits t q s hd, rfl⟩)
      rintro ⟨_, _, _, ⟨⟩, hlong⟩
      exact hd hlong
  | regRead n =>
    cases hn : statusRegister n s with
    | none => exact .inl ⟨(statusRegister_eq_none_iff n s).mp hn, nofun, exec_regRead_none hn⟩
    | some v =>
      have hwf : (Instr.regRead n).wf ≠ false := fun h => by
        simp [(statusRegister_eq_none_iff n s).mpr h] at hn
      exact .inr (.inr ⟨Bool.eq_true_of_not_eq_false hwf, nofun, _, _, exec_regRead_some hn, rfl⟩)
  | _ => exact .inr (.inr ⟨rfl, nofun, _, _, rfl, rfl⟩)

/-- An error response is all that a command leaves behind when it does not end OK (R92). -/
theorem exec_eq_error {r : Response} (he : exec i s = .next u) (hr : u.resultPort = some r)
    (hne : r.status ≠ .ok) : u = s.respond r ∧ r = Response.error r.status := by
  obtain ⟨-, -, h⟩ | ⟨-, -, h⟩ | ⟨-, -, v, r', h, hok⟩ := exec_outcome i s
  all_goals
    cases he.symm.trans h
    cases hr
  · exact ⟨rfl, rfl⟩
  · exact ⟨rfl, rfl⟩
  · exact absurd hok hne

/-- Settles O36: `exec_eq_error` for a decoded command, `step_illegal` for the others. -/
theorem errorsWriteNoState : Obligations.ErrorsWriteNoState := by
  refine ⟨fun i s t r he hr hne => ?_, fun _ _ _ _ => step_illegal⟩
  obtain ⟨ht, hempty⟩ := exec_eq_error he hr hne
  rw [hempty] at ht ⊢
  exact ⟨ht, rfl, rfl, rfl, rfl, rfl, rfl, rfl⟩

/-! ## A CRC mismatch -/

/-- The state after a frame with a wrong CRC: the mismatch counted, and the parser in Idle with
nothing in `buf` (R81). -/
def State.badFrame (s : State) : State :=
  s.clearMsgValid.countMismatch.bufClear.writePState .idle

theorem feedByte_badFrame (h : CompletesBadFrame s b) : feedByte s b = (s.badFrame, none) := by
  obtain ⟨hp, hlen, hcrc⟩ := h
  exact feedByte_crc_bad hp hlen hcrc

theorem exec_prsByte_badFrame (h : CompletesBadFrame s b) :
    exec (.prsByte b) s = .next (s.badFrame.respond { status := .ok }) :=
  exec_prsByte_of_feedByte (feedByte_badFrame h)

/-- A PRS_BUF goes on after a bad frame as a new PRS_BUF would, whatever is on the result port
(R93). -/
theorem exec_prsBuf_badFrame (h : CompletesBadFrame s b) (d : List Byte) (r : Response) :
    exec (.prsBuf (b :: d)) s = exec (.prsBuf d) (s.badFrame.respond r) := by
  have hfeed : feed s.clearMsgValid (b :: d) = feed s.badFrame.clearMsgValid d := by
    rw [feed_clearMsgValid_cons, feed, feedByte_badFrame h]
    rfl
  rw [exec_prsBuf_respond, exec_prsBuf, hfeed, exec_prsBuf]

/-- Settles O39: `exec_prsByte_badFrame` for the byte, `exec_prsBuf_badFrame` for the buffer. -/
theorem mismatchDoesNotStopTheBuffer : Obligations.MismatchDoesNotStopTheBuffer := by
  intro s b d h
  have hrest := exec_prsBuf d (s.badFrame.respond { status := .ok })
  exact ⟨_, _, _, exec_prsByte_badFrame h, rfl, rfl, rfl, rfl, rfl, hrest, rfl,
    (exec_prsBuf_badFrame h d _).trans hrest⟩

/-- Settles O37: `exec_outcome` for the decoded commands, `step_illegal` and the port rule of
ENC_BUILD for the malformed ones, and the bad frame inside a buffer. -/
theorem statusOfEveryCommand : Obligations.StatusOfEveryCommand := by
  refine ⟨fun i s => ?_, fun _ _ _ _ => step_illegal, fun s c rest hin hopc hhi => ?_,
    fun s b d h => ?_, rfl, rfl, rfl⟩
  · obtain ⟨hwf, hlong, he⟩ | ⟨hwf, hlong, he⟩ | ⟨hwf, hlong, u, r, he, hok⟩ := exec_outcome i s
    · exact ⟨_, _, he, rfl, iff_of_true rfl hwf, iff_of_false nofun hlong⟩
    · exact ⟨_, _, he, rfl, iff_of_false nofun (by simp [hwf]), iff_of_true rfl hlong⟩
    · exact ⟨_, _, he, rfl, iff_of_false (by simp [hok]) (by simp [hwf]),
        iff_of_false (by simp [hok]) hlong⟩
  · obtain ⟨-, -, hport, -⟩ := encBuildReturnsFrame
    exact (hport s c rest hin hopc).2 hhi
  · have hrest := exec_prsBuf d (s.badFrame.respond { status := .ok })
    exact ⟨_, _, _, exec_prsByte_badFrame h, hrest, (exec_prsBuf_badFrame h d _).trans hrest, rfl⟩

end Sys2Proof.Machine
end

section
/-! Resets and hazards: the two resets side by side (R105), the output message gone after the next
parser command (R108), and a frame that waits in `buf` for the rest of its bytes (R111). -/

namespace Sys2Proof.Machine

variable {s : State} {d : List Byte}

/-! ## The two resets -/

/-- Settles O31: a reset at the port leaves a power-on state, PRS_RESET the parser between frames
and the rest as it was. -/
theorem twoResetsDiffer : Obligations.TwoResetsDiffer := by
  intro s rest
  exact ⟨_, _, step_powerOnReset rfl, (step_encoded (rest := rest) rfl).trans (exec_prsReset _),
    rfl, rfl, rfl, rfl, rfl, rfl, rfl, rfl, rfl, rfl⟩

/-! ## The output message -/

/-- Bytes that complete no good frame leave no message in the message registers (R83). -/
theorem feed_msgValid_of_no_message (hs : s.msgValid = false) (hmsgs : (feed s d).2 = []) :
    (feed s d).1.msgValid = false := by
  cases hv : (feed s d).1.msgValid with
  | false => rfl
  | true =>
    have hlast := feed_getLast? hs d hv
    rw [hmsgs, message_of_msgValid hv] at hlast
    cases hlast

/-- MSG_INFO reads 0 while there is no message (R31). -/
theorem exec_regRead_msgInfo_of_no_message (hs : s.msgValid = false) :
    exec (.regRead 5) s = .next (s.respond { status := .ok, regValue := 0 }) := by
  have hinfo : msgInfo s = 0 := if_neg (by simp [hs])
  rw [← hinfo]
  exact exec_regRead s 5

/-- Settles O43: by the parser command, PRS_BYTE by `done_eq_msgValid` and PRS_BUF by
`feed_msgValid_of_no_message`. -/
theorem messageIsTransient : Obligations.MessageIsTransient := by
  intro s i hi
  cases i with
  | prsByte b =>
    refine ⟨_, _, exec_prsByte b s, rfl, fun hmsg _ => ?_⟩
    have hv : (feedByte s b).1.msgValid = false :=
      (done_eq_msgValid s b).symm.trans (congrArg Option.isSome hmsg)
    exact ⟨hv, exec_regRead_msgInfo_of_no_message hv⟩
  | prsBuf d =>
    refine ⟨_, _, exec_prsBuf d s, rfl, fun _ hmsgs => ?_⟩
    have hv := feed_msgValid_of_no_message (State.clearMsgValid_msgValid (s := s)) hmsgs
    exact ⟨hv, exec_regRead_msgInfo_of_no_message hv⟩
  | prsReset =>
    exact ⟨_, _, exec_prsReset s, rfl, fun _ _ => ⟨rfl, exec_regRead_msgInfo_of_no_message rfl⟩⟩
  | _ => cases hi

/-! ## A truncated frame -/

/-- From Idle, the bytes that open a frame are all in the buffer, however few have come. -/
theorem feed_header_prefix (hs : ParserInv s) (hp : s.pstate = .idle) {hi lo : Byte}
    (hd : d <+: [0xAA#8, 0x55#8, hi, lo]) :
    (feed s d).2 = [] ∧ (feed s d).1.errCount = s.errCount ∧ (feed s d).1.buf = d := by
  have hempty := buf_of_idle hs hp
  have hcases : d ∈ [0xAA#8, 0x55#8, hi, lo].inits := (List.mem_inits _ _).mpr hd
  simp only [List.inits, List.map_cons, List.map_nil, List.mem_cons, List.not_mem_nil,
    or_false] at hcases
  rcases hcases with rfl | rfl | rfl | rfl | rfl <;>
    simp [feed, feedByte_idle, feedByte_header, feedByte_length, hp, hempty]

/-- From Idle, a built frame cut before its end is all in the buffer: nothing completes and nothing
is counted (R111). -/
theorem feed_truncated_buildFrame (hs : ParserInv s) (hp : s.pstate = .idle) {t q : Byte}
    {p rest : List Byte} (hlen : p.length ≤ 65535) (hcut : buildFrame s.cfg t q p = d ++ rest)
    (hrest : rest ≠ []) :
    (feed s d).2 = [] ∧ (feed s d).1.errCount = s.errCount ∧ (feed s d).1.buf = d := by
  rw [buildFrame_eq_header_append] at hcut
  obtain ⟨y, rfl, hy⟩ | ⟨c, hc, -⟩ := List.append_eq_append_iff.mp hcut
  · have hshort : y.length < p.length + 4 := by
      have hylen := congrArg List.length hy
      have hpos := List.length_pos_iff.mpr hrest
      simp only [List.length_append, List.length_cons, List.length_nil] at hylen
      omega
    rw [← lengthField_toNat hlen] at hshort
    exact feed_partial_frame hs (.inl hp) hshort
  · exact feed_header_prefix hs hp ⟨c, hc.symm⟩

/-- Commands that are not the parser's write nothing but `crc_reg` and the result port, however
many of them run (R32). -/
theorem runInstrs_nonParser {js : List Instr} (hjs : ∀ j ∈ js, isParserCommand j = false)
    (s : State) (r : Response) : ∃ (v : Half) (r' : Response) (rs : List Response),
      runInstrs js (s.respond r) = some ((s.writeCrc v).respond r', rs) := by
  induction js generalizing s r with
  | nil => exact ⟨s.crcReg, r, [], rfl⟩
  | cons j js ih =>
    obtain ⟨hj, hjs⟩ := List.forall_mem_cons.mp hjs
    obtain ⟨v, r₁, hexec, -⟩ := exec_nonParser hj (s.respond r)
    obtain ⟨v', r', rs, hrun⟩ := ih hjs (s.writeCrc v) r₁
    exact ⟨v', r', r₁ :: rs, runInstrs_cons hexec rfl hrun⟩

/-- A PRS_BUF looks at neither `crc_reg` nor the result port (R20), nor at `msg_valid` when it has a
byte to feed. -/
theorem exec_prsBuf_after_nonParser (hd : d ≠ []) (s : State) (v : Half) (r : Response) :
    exec (.prsBuf d) ((s.writeCrc v).respond r) =
      .next (((feed s d).1.writeCrc v).respond { status := .ok, msgs := (feed s d).2 }) := by
  rw [exec_prsBuf_respond, exec_prsBuf, feed_clearMsgValid _ hd, feed_writeCrc]

/-- Settles O27: the first part by `feed_truncated_buildFrame`, the commands in between by
`runInstrs_nonParser`, and the rest because both parts together are the whole frame
(`feed_append`, `feed_buildFrame`). -/
theorem truncatedFrameWaits : Obligations.TruncatedFrameWaits := by
  intro s t q p a b js ⟨hs, _⟩ hp hlen hcut hb hjs
  obtain ⟨hmsgs, herr, hbuf⟩ :=
    feed_truncated_buildFrame (s := s.clearMsgValid) hs hp hlen hcut hb
  obtain ⟨hover, hwhole, -⟩ := feed_buildFrame (s := s.clearMsgValid) t q hs (.inl hp) hlen
  rw [State.clearMsgValid_cfg, hcut, feed_append] at hover hwhole
  rw [hmsgs, List.nil_append] at hwhole
  obtain ⟨v, r, rs, hrun⟩ :=
    runInstrs_nonParser hjs (feed s.clearMsgValid a).1 { status := .ok }
  have hrest := exec_prsBuf_after_nonParser hb (feed s.clearMsgValid a).1 v r
  rw [hwhole] at hrest
  obtain ⟨hidle, hempty⟩ := hover
  exact ⟨_, _, rs, runInstrs_cons (exec_prsBuf_of_msgs hmsgs) rfl hrun, hbuf, herr, hrest, rfl,
    hidle, hempty⟩

end Sys2Proof.Machine
end
